-- ==== Sys2Proof/Word.lean ====
section
/-! DEFINITION. The words the block moves: bytes, 32-bit words and byte strings (00_scope.md R7, R8). -/

namespace Sys2Proof

/-- A byte: 8 bits, value 0..255 (R7). -/
abbrev Byte := BitVec 8

/-- A word: 32 bits (R7). -/
abbrev Word := BitVec 32

/-- A byte string, first byte first (R8). -/
abbrev Bytes := List Byte

end Sys2Proof
end

