-- ==== Sys2Proof/Syntax.lean ====
section
/-! DEFINITION. The instructions of the block: one constructor per row of spec/opcode_table.json, the 27 commands of
30_encoding.md R94 and the 3 stage tags of R95. -/

namespace Sys2Proof

/-- An instruction. `rd`, `ra`, `rb` of type `BitVec 2` are buffer numbers B0..B3, `kd` and `k` of type `BitVec 3` are
key-slot numbers K0..K7 (R91, R92); `fmt` and `c` are the two-bit modifiers of R93, whose value 3 is reserved
(`Instr.wf`); `u`, `r` are the option bits `U`, `R`; `off`, `len` the six-bit fields of `KDFK`, `KDFIV`. -/
inductive Instr where
  /-- `NOP`, R121. -/
  | nop
  /-- `ERRCLR`, R122. -/
  | errclr
  /-- `BCLR Bd`, R123. -/
  | bclr (rd : BitVec 2)
  /-- `BCPY Bd, Ba`, R124. -/
  | bcpy (rd ra : BitVec 2)
  /-- `BCAT Bd, Ba`, R125. -/
  | bcat (rd ra : BitVec 2)
  /-- `KSETK Kd, Ba`, R126. -/
  | ksetk (kd : BitVec 3) (ra : BitVec 2)
  /-- `KSETIV Kd, Ba`, R127. -/
  | ksetiv (kd : BitVec 3) (ra : BitVec 2)
  /-- `B64ENC[.U] Bd, Ba`, R146. -/
  | b64enc (rd ra : BitVec 2) (u : Bool)
  /-- `B64DEC[.U] Bd, Ba`, R147. -/
  | b64dec (rd ra : BitVec 2) (u : Bool)
  /-- `U8CHK Ba`, R148. -/
  | u8chk (ra : BitVec 2)
  /-- `MD5INIT`, R171. -/
  | md5init
  /-- `MD5UPD Ba`, R172. -/
  | md5upd (ra : BitVec 2)
  /-- `MD5FIN.fmt Bd`, R173. -/
  | md5fin (rd : BitVec 2) (fmt : BitVec 2)
  /-- `MD5.fmt Bd, Ba`, R174. -/
  | md5 (rd ra : BitVec 2) (fmt : BitVec 2)
  /-- `HMAC.fmt Bd, Ba, Bb` (`Ba` key, `Bb` message), R177. -/
  | hmac (rd ra rb : BitVec 2) (fmt : BitVec 2)
  /-- `DESENC Bd, Ba, Kk`, R213. -/
  | desenc (rd ra : BitVec 2) (k : BitVec 3)
  /-- `DESDEC Bd, Ba, Kk`, R214. -/
  | desdec (rd ra : BitVec 2) (k : BitVec 3)
  /-- `TDESENC Bd, Ba, Kk`, R215. -/
  | tdesenc (rd ra : BitVec 2) (k : BitVec 3)
  /-- `TDESDEC Bd, Ba, Kk`, R216. -/
  | tdesdec (rd ra : BitVec 2) (k : BitVec 3)
  /-- `AESENC Bd, Ba, Kk`, R252. -/
  | aesenc (rd ra : BitVec 2) (k : BitVec 3)
  /-- `AESDEC Bd, Ba, Kk`, R253. -/
  | aesdec (rd ra : BitVec 2) (k : BitVec 3)
  /-- `CBCENC.c Bd, Ba, Kk`, R289. -/
  | cbcenc (rd ra : BitVec 2) (k : BitVec 3) (c : BitVec 2)
  /-- `CBCDEC.c Bd, Ba, Kk`, R290. -/
  | cbcdec (rd ra : BitVec 2) (k : BitVec 3) (c : BitVec 2)
  /-- `KDFK Kd, Ba, off, len`, R302. -/
  | kdfk (kd : BitVec 3) (ra : BitVec 2) (off len : BitVec 6)
  /-- `KDFIV Kd, Ba, off, len`, R303. -/
  | kdfiv (kd : BitVec 3) (ra : BitVec 2) (off len : BitVec 6)
  /-- `PENC Bd, Ba`, R325. -/
  | penc (rd ra : BitVec 2)
  /-- `PDEC[.U][.R] Bd, Ba`, R326. -/
  | pdec (rd ra : BitVec 2) (u r : Bool)
  /-- Stage tag `1` (0x31), AES-128 CBC, R322, R323. -/
  | tag1
  /-- Stage tag `2` (0x32), DES CBC, R322, R323. -/
  | tag2
  /-- Stage tag `3` (0x33), Base64, R322, R323. -/
  | tag3
  deriving DecidableEq, Repr

end Sys2Proof
end

