-- ==== Sys2Proof/WellFormed.lean ====
section
/-! DEFINITION. When an instruction term is one the encoding admits (30_encoding.md R93, R96 (e)). The ranges of the
register numbers (R96 (b)) are in the types of the operands; what is left to check are the two reserved modifiers. -/

namespace Sys2Proof

/-- `fmt = 3` and `c = 3` are reserved (R93); every other operand value is legal (R96; for `KDFK` and `KDFIV` "every
`imm` value decodes", R302). -/
def Instr.wf : Instr → Bool
  | .md5fin _ fmt => fmt != 3#2
  | .md5 _ _ fmt => fmt != 3#2
  | .hmac _ _ _ fmt => fmt != 3#2
  | .cbcenc _ _ _ c => c != 3#2
  | .cbcdec _ _ _ c => c != 3#2
  | .nop | .errclr | .bclr _ | .bcpy _ _ | .bcat _ _ | .ksetk _ _ | .ksetiv _ _ | .b64enc _ _ _
  | .b64dec _ _ _ | .u8chk _ | .md5init | .md5upd _ | .desenc _ _ _ | .desdec _ _ _ | .tdesenc _ _ _
  | .tdesdec _ _ _ | .aesenc _ _ _ | .aesdec _ _ _ | .kdfk _ _ _ _ | .kdfiv _ _ _ _ | .penc _ _
  | .pdec _ _ _ _ | .tag1 | .tag2 | .tag3 => true

end Sys2Proof
end

