-- ==== Sys2Proof/Decode.lean ====
section
/-! DEFINITION. The decoder of command words and stage tags, total, rejecting by name (30_encoding.md R91 to R98), and
the encoder written from the same tables. -/

namespace Sys2Proof

/-- Why a word is no command or a byte no stage tag: the first check of R97 that fails. All of them raise the same
fault `E_ILLEGAL` (a bad tag: `E_STAGE`, R96), so the name is not observable on the block. -/
inductive DecodeError where
  /-- `op` is not one of the 27 opcodes (R96 (a)). -/
  | opcode
  /-- `rd` is out of range, or not 0 where the format does not use it (R96 (b), (c)). -/
  | rd
  /-- The same of `ra`. -/
  | ra
  /-- The same of `rb`. -/
  | rb
  /-- An unassigned `imm` bit is 1, or `fmt = 3` or `c = 3` (R96 (d), (e)). -/
  | imm
  /-- A byte that is none of the three stage tags (R95). -/
  | tag
  deriving DecidableEq, Repr

/-- The fields of a command word (R91). -/
structure Fields where
  op : BitVec 8
  rd : BitVec 4
  ra : BitVec 4
  rb : BitVec 4
  imm : BitVec 12
  deriving DecidableEq, Repr

/-- `op = cw[31:24]`, `rd = cw[23:20]`, `ra = cw[19:16]`, `rb = cw[15:12]`, `imm = cw[11:0]` (R91). -/
def fieldsOf (cw : Word) : Fields where
  op := cw.extractLsb' 24 8
  rd := cw.extractLsb' 20 4
  ra := cw.extractLsb' 16 4
  rb := cw.extractLsb' 12 4
  imm := cw.extractLsb' 0 12

/-- The word that has the given fields (R91). -/
def wordOf (f : Fields) : Word :=
  f.op ++ f.rd ++ f.ra ++ f.rb ++ f.imm

/-- A register field the format does not use: it must be 0 (R96 (c)). -/
def fieldZero (e : DecodeError) (f : BitVec 4) : Except DecodeError Unit :=
  if f = 0#4 then .ok () else .error e

/-- A register field that names a buffer: legal 0..3 (R91). -/
def fieldBuf (e : DecodeError) (f : BitVec 4) : Except DecodeError (BitVec 2) :=
  if f.extractLsb' 2 2 = 0#2 then .ok (f.extractLsb' 0 2) else .error e

/-- A register field that names a key slot: legal 0..7 (R91). -/
def fieldSlot (e : DecodeError) (f : BitVec 4) : Except DecodeError (BitVec 3) :=
  if f.extractLsb' 3 1 = 0#1 then .ok (f.extractLsb' 0 3) else .error e

/-- `imm` where the command assigns no bit of it (R93). -/
def immZero (imm : BitVec 12) : Except DecodeError Unit :=
  if imm = 0#12 then .ok () else .error .imm

/-- `imm[0]` an option bit, the rest 0 (R93). -/
def immOption (imm : BitVec 12) : Except DecodeError Bool :=
  if imm.extractLsb' 1 11 = 0#11 then .ok (imm.getLsbD 0) else .error .imm

/-- `imm[0] = U`, `imm[1] = R`, the rest 0 (R93, `PDEC`). -/
def immOptions (imm : BitVec 12) : Except DecodeError (Bool × Bool) :=
  if imm.extractLsb' 2 10 = 0#10 then .ok (imm.getLsbD 0, imm.getLsbD 1) else .error .imm

/-- `imm[1:0]` a two-bit selector whose value 3 is reserved, the rest 0 (R93, R96 (e)). -/
def immSelector (imm : BitVec 12) : Except DecodeError (BitVec 2) :=
  if imm.extractLsb' 2 10 = 0#10 ∧ imm.extractLsb' 0 2 ≠ 3#2 then .ok (imm.extractLsb' 0 2) else .error .imm

/-- Format `Z` (R92): no field used. -/
def formatZ (f : Fields) (i : Instr) : Except DecodeError Instr := do
  fieldZero .rd f.rd
  fieldZero .ra f.ra
  fieldZero .rb f.rb
  immZero f.imm
  return i

/-- Format `D`: `rd` a buffer. -/
def formatD (f : Fields) (mk : BitVec 2 → Instr) : Except DecodeError Instr := do
  let rd ← fieldBuf .rd f.rd
  fieldZero .ra f.ra
  fieldZero .rb f.rb
  immZero f.imm
  return mk rd

/-- Format `S`: `ra` a buffer. -/
def formatS (f : Fields) (mk : BitVec 2 → Instr) : Except DecodeError Instr := do
  fieldZero .rd f.rd
  let ra ← fieldBuf .ra f.ra
  fieldZero .rb f.rb
  immZero f.imm
  return mk ra

/-- Format `DS`: `rd` and `ra` buffers. -/
def formatDS (f : Fields) (mk : BitVec 2 → BitVec 2 → Instr) : Except DecodeError Instr := do
  let rd ← fieldBuf .rd f.rd
  let ra ← fieldBuf .ra f.ra
  fieldZero .rb f.rb
  immZero f.imm
  return mk rd ra

/-- Format `DSM` with the option `U` (`B64ENC`, `B64DEC`). -/
def formatDSMOption (f : Fields) (mk : BitVec 2 → BitVec 2 → Bool → Instr) : Except DecodeError Instr := do
  let rd ← fieldBuf .rd f.rd
  let ra ← fieldBuf .ra f.ra
  fieldZero .rb f.rb
  let u ← immOption f.imm
  return mk rd ra u

/-- Format `DSM` with the options `U` and `R` (`PDEC`). -/
def formatDSMOptions (f : Fields) (mk : BitVec 2 → BitVec 2 → Bool → Bool → Instr) : Except DecodeError Instr := do
  let rd ← fieldBuf .rd f.rd
  let ra ← fieldBuf .ra f.ra
  fieldZero .rb f.rb
  let ur ← immOptions f.imm
  return mk rd ra ur.1 ur.2

/-- Format `DSM` with the digest format (`MD5`). -/
def formatDSMSelector (f : Fields) (mk : BitVec 2 → BitVec 2 → BitVec 2 → Instr) : Except DecodeError Instr := do
  let rd ← fieldBuf .rd f.rd
  let ra ← fieldBuf .ra f.ra
  fieldZero .rb f.rb
  let m ← immSelector f.imm
  return mk rd ra m

/-- Format `DM`: `rd` a buffer and the digest format (`MD5FIN`). -/
def formatDM (f : Fields) (mk : BitVec 2 → BitVec 2 → Instr) : Except DecodeError Instr := do
  let rd ← fieldBuf .rd f.rd
  fieldZero .ra f.ra
  fieldZero .rb f.rb
  let m ← immSelector f.imm
  return mk rd m

/-- Format `DST`: three buffers and the digest format (`HMAC`). -/
def formatDST (f : Fields) (mk : BitVec 2 → BitVec 2 → BitVec 2 → BitVec 2 → Instr) : Except DecodeError Instr := do
  let rd ← fieldBuf .rd f.rd
  let ra ← fieldBuf .ra f.ra
  let rb ← fieldBuf .rb f.rb
  let m ← immSelector f.imm
  return mk rd ra rb m

/-- Format `DSK`: two buffers and a key slot. -/
def formatDSK (f : Fields) (mk : BitVec 2 → BitVec 2 → BitVec 3 → Instr) : Except DecodeError Instr := do
  let rd ← fieldBuf .rd f.rd
  let ra ← fieldBuf .ra f.ra
  let k ← fieldSlot .rb f.rb
  immZero f.imm
  return mk rd ra k

/-- Format `DSKM`: two buffers, a key slot and the cipher selector. -/
def formatDSKM (f : Fields) (mk : BitVec 2 → BitVec 2 → BitVec 3 → BitVec 2 → Instr) : Except DecodeError Instr := do
  let rd ← fieldBuf .rd f.rd
  let ra ← fieldBuf .ra f.ra
  let k ← fieldSlot .rb f.rb
  let m ← immSelector f.imm
  return mk rd ra k m

/-- Format `KS`: `rd` a key slot, `ra` a buffer. -/
def formatKS (f : Fields) (mk : BitVec 3 → BitVec 2 → Instr) : Except DecodeError Instr := do
  let kd ← fieldSlot .rd f.rd
  let ra ← fieldBuf .ra f.ra
  fieldZero .rb f.rb
  immZero f.imm
  return mk kd ra

/-- Format `KD`: `rd` a key slot, `ra` a buffer, `off = imm[11:6]`, `len = imm[5:0]`; every `imm` decodes (R93). -/
def formatKD (f : Fields) (mk : BitVec 3 → BitVec 2 → BitVec 6 → BitVec 6 → Instr) : Except DecodeError Instr := do
  let kd ← fieldSlot .rd f.rd
  let ra ← fieldBuf .ra f.ra
  fieldZero .rb f.rb
  return mk kd ra (f.imm.extractLsb' 6 6) (f.imm.extractLsb' 0 6)

/-- The opcode map of R94 over the fields of a word. -/
def decodeFields (f : Fields) : Except DecodeError Instr :=
  match f.op.toNat with
  | 0x00 => formatZ f .nop
  | 0x01 => formatZ f .errclr
  | 0x08 => formatD f .bclr
  | 0x09 => formatDS f .bcpy
  | 0x0A => formatDS f .bcat
  | 0x0C => formatKS f .ksetk
  | 0x0D => formatKS f .ksetiv
  | 0x10 => formatDSMOption f .b64enc
  | 0x11 => formatDSMOption f .b64dec
  | 0x12 => formatS f .u8chk
  | 0x20 => formatZ f .md5init
  | 0x21 => formatS f .md5upd
  | 0x22 => formatDM f .md5fin
  | 0x23 => formatDSMSelector f .md5
  | 0x24 => formatDST f .hmac
  | 0x30 => formatDSK f .desenc
  | 0x31 => formatDSK f .desdec
  | 0x32 => formatDSK f .tdesenc
  | 0x33 => formatDSK f .tdesdec
  | 0x40 => formatDSK f .aesenc
  | 0x41 => formatDSK f .aesdec
  | 0x50 => formatDSKM f .cbcenc
  | 0x51 => formatDSKM f .cbcdec
  | 0x60 => formatKD f .kdfk
  | 0x61 => formatKD f .kdfiv
  | 0x70 => formatDS f .penc
  | 0x71 => formatDSMOptions f .pdec
  | _ => .error .opcode

/-- The decoder of command words (R96, R97): the word of `CW`, to its instruction or the check that fails. -/
def decode (cw : Word) : Except DecodeError Instr :=
  decodeFields (fieldsOf cw)

/-- The decoder of stage tags (R95): a byte of `PCFG`. -/
def decodeTag (t : Byte) : Except DecodeError Instr :=
  match t.toNat with
  | 0x31 => .ok .tag1
  | 0x32 => .ok .tag2
  | 0x33 => .ok .tag3
  | _ => .error .tag

/-- An encoded instruction: a command word or a stage-tag byte. "The two never mix" (R90). -/
inductive Code where
  /-- A word for `CMD`. -/
  | command (cw : Word)
  /-- A byte for `PCFG`. -/
  | tag (t : Byte)
  deriving DecidableEq, Repr

/-- The decoder of both levels. -/
def decodeCode : Code → Except DecodeError Instr
  | .command cw => decode cw
  | .tag t => decodeTag t

/-- A register field from a buffer number. -/
def bufField (b : BitVec 2) : BitVec 4 := 0#2 ++ b

/-- A register field from a key-slot number. -/
def slotField (k : BitVec 3) : BitVec 4 := 0#1 ++ k

/-- `imm` from a two-bit selector. -/
def selectorField (m : BitVec 2) : BitVec 12 := 0#10 ++ m

/-- `imm` from the options `U` (bit 0) and `R` (bit 1). -/
def optionField (u r : Bool) : BitVec 12 := 0#10 ++ BitVec.ofBool r ++ BitVec.ofBool u

/-- The command word with the given opcode and fields (R91, R99). -/
def commandCode (op : BitVec 8) (rd ra rb : BitVec 4) (imm : BitVec 12) : Code :=
  .command (wordOf ⟨op, rd, ra, rb, imm⟩)

/-- The encoder: the word (R99) or the tag byte (R95) of an instruction. -/
def encode : Instr → Code
  | .nop => commandCode 0x00#8 0#4 0#4 0#4 0#12
  | .errclr => commandCode 0x01#8 0#4 0#4 0#4 0#12
  | .bclr rd => commandCode 0x08#8 (bufField rd) 0#4 0#4 0#12
  | .bcpy rd ra => commandCode 0x09#8 (bufField rd) (bufField ra) 0#4 0#12
  | .bcat rd ra => commandCode 0x0A#8 (bufField rd) (bufField ra) 0#4 0#12
  | .ksetk kd ra => commandCode 0x0C#8 (slotField kd) (bufField ra) 0#4 0#12
  | .ksetiv kd ra => commandCode 0x0D#8 (slotField kd) (bufField ra) 0#4 0#12
  | .b64enc rd ra u => commandCode 0x10#8 (bufField rd) (bufField ra) 0#4 (optionField u false)
  | .b64dec rd ra u => commandCode 0x11#8 (bufField rd) (bufField ra) 0#4 (optionField u false)
  | .u8chk ra => commandCode 0x12#8 0#4 (bufField ra) 0#4 0#12
  | .md5init => commandCode 0x20#8 0#4 0#4 0#4 0#12
  | .md5upd ra => commandCode 0x21#8 0#4 (bufField ra) 0#4 0#12
  | .md5fin rd fmt => commandCode 0x22#8 (bufField rd) 0#4 0#4 (selectorField fmt)
  | .md5 rd ra fmt => commandCode 0x23#8 (bufField rd) (bufField ra) 0#4 (selectorField fmt)
  | .hmac rd ra rb fmt => commandCode 0x24#8 (bufField rd) (bufField ra) (bufField rb) (selectorField fmt)
  | .desenc rd ra k => commandCode 0x30#8 (bufField rd) (bufField ra) (slotField k) 0#12
  | .desdec rd ra k => commandCode 0x31#8 (bufField rd) (bufField ra) (slotField k) 0#12
  | .tdesenc rd ra k => commandCode 0x32#8 (bufField rd) (bufField ra) (slotField k) 0#12
  | .tdesdec rd ra k => commandCode 0x33#8 (bufField rd) (bufField ra) (slotField k) 0#12
  | .aesenc rd ra k => commandCode 0x40#8 (bufField rd) (bufField ra) (slotField k) 0#12
  | .aesdec rd ra k => commandCode 0x41#8 (bufField rd) (bufField ra) (slotField k) 0#12
  | .cbcenc rd ra k c => commandCode 0x50#8 (bufField rd) (bufField ra) (slotField k) (selectorField c)
  | .cbcdec rd ra k c => commandCode 0x51#8 (bufField rd) (bufField ra) (slotField k) (selectorField c)
  | .kdfk kd ra off len => commandCode 0x60#8 (slotField kd) (bufField ra) 0#4 (off ++ len)
  | .kdfiv kd ra off len => commandCode 0x61#8 (slotField kd) (bufField ra) 0#4 (off ++ len)
  | .penc rd ra => commandCode 0x70#8 (bufField rd) (bufField ra) 0#4 0#12
  | .pdec rd ra u r => commandCode 0x71#8 (bufField rd) (bufField ra) 0#4 (optionField u r)
  | .tag1 => .tag 0x31#8
  | .tag2 => .tag 0x32#8
  | .tag3 => .tag 0x33#8

/-- The instruction the decoder reads from `nbits` bits of value `w`, numbered as spec/opcode_table.json numbers them:
its 8-bit rows are bytes of `PCFG`, its 32-bit rows words written to `CMD` (R98). -/
def decodeTableWord (nbits w : Nat) : Option Instr :=
  (if nbits ≤ 8 then decodeTag (BitVec.ofNat 8 w) else decode (BitVec.ofNat 32 w)).toOption

end Sys2Proof
end

