-- ==== Sys2Proof/Config.lean ====
section
/-! DEFINITION. The parameters of the block (00_scope.md R6) and its identification constants (10_state.md R35). -/

namespace Sys2Proof

/-- What an implementation of the block fixes: the open parameter `CAP`, the capacity of every buffer and of the
sequencer's working string (R6). It is an argument of the model: every claim that quantifies over states quantifies
over it. -/
structure Config where
  /-- `CAP`, in bytes. -/
  cap : Nat
  deriving DecidableEq, Repr

/-- The values R6 allows for `CAP`: any multiple of 4 from 64 to 65536. -/
abbrev Config.Legal (c : Config) : Prop :=
  64 ≤ c.cap ∧ c.cap ≤ 65536 ∧ c.cap % 4 = 0

/-- R6's default, `CAP = 4096`. -/
def Config.default : Config := ⟨4096⟩

/-- `KCAP`, key bytes per slot (R6). -/
def keyCap : Nat := 24

/-- `IVCAP`, IV bytes per slot (R6). -/
def ivCap : Nat := 16

/-- `ID` (R1, R35). -/
def identification : Word := 0x414B4D35#32

/-- `PARAM1 = NBUF | NKS << 8 | NST << 16` (R35). -/
def parameterWord : Word := 0x00100804#32

end Sys2Proof
end

