-- ==== Sys2Proof/Machine/State.lean ====
section
/-! DEFINITION. The state of the block (10_state.md), the two agents' pending events (20_memory.md R72), the reasons a
step can stop, and the state after reset (R41). -/

namespace Sys2Proof.Machine

/-- `SEQ.SST`, the sequencer's state (R31): 0 `IDLE`, 1 `RUN`, 2 `POST`; 3 never occurs. -/
inductive Sst where
  | idle
  | run
  | post
  deriving DecidableEq, Repr

/-- `SEQ.SDIR`, the direction of the last `PENC` or `PDEC` (R31): 0 encode, 1 decode. -/
inductive Dir where
  | enc
  | dec
  deriving DecidableEq, Repr

/-- A key slot (R23): `key` of `klen` = its length in 0..24, `iv` of `ivlen` = its length in 0..16. -/
structure KeySlot where
  key : Bytes
  iv : Bytes
  deriving DecidableEq, Repr

/-- The four MD5 accumulators A, B, C, D (R24). -/
structure Accum where
  a : Word
  b : Word
  c : Word
  d : Word
  deriving DecidableEq, Repr

/-- The MD5 incremental context `MD` (R24): the accumulators, the bytes absorbed but not yet compressed, and the number
of message bits absorbed, modulo 2^64. -/
structure Md5Ctx where
  h : Accum
  buf : Bytes
  len : BitVec 64
  deriving DecidableEq, Repr

/-- The storage bits of `CTRL` (R26). The other bits of the register are no storage: `SRST` and the reserved bits read
0 and `CHRSZ` is hard-wired to 8 (`ctrlWord`). -/
structure Ctrl where
  ieDone : Bool
  ieErr : Bool
  hexCase : Bool
  b64Pad : Bool
  padChk : Bool
  deriving DecidableEq, Repr

/-- The storage bits of `STATUS` (R27); its reserved bits read 0 (`statusWord`). -/
structure Status where
  busy : Bool
  done : Bool
  fault : Bool
  ovr : Bool
  err : BitVec 8
  deriving DecidableEq, Repr

/-- The response of the bus to a transaction (R60). -/
inductive BusResp where
  | okay
  | error
  deriving DecidableEq, Repr

/-- What a host transaction returns: the response and, for a read whose data the spec states, the data. -/
structure BusReply where
  resp : BusResp
  data : Option Word
  deriving DecidableEq, Repr

/-- One event of the total order of R72 that is still to come. `width` is the transaction's width in bits; the block
serves 32 only (R68). -/
inductive HostEvent where
  /-- The core's turn: one core step if `BUSY`, else nothing happens. -/
  | core
  /-- `HostRead(addr)`. -/
  | read (width : Nat) (addr : BitVec 20)
  /-- `HostWrite(addr, v)`. -/
  | write (width : Nat) (addr : BitVec 20) (v : Word)
  /-- A pulse of the reset input `rst` (R400). -/
  | hardReset
  deriving DecidableEq, Repr

/-- The state of the block (R20), the open parameter it is built with, and the model's own fields for its environment:
the events still to come and the reply of the last host transaction. -/
structure State where
  /-- The parameter `CAP` (R6); no step changes it. -/
  cfg : Config
  /-- `BUF[0..3]` (R21); `BLEN[b]` is the length of `BUF[b]`. -/
  bufs : Vector Bytes 4
  /-- `KS[0..7]` (R23). -/
  slots : Vector KeySlot 8
  /-- `MD` (R24). -/
  md : Md5Ctx
  /-- `CTRL` (R26). -/
  ctrl : Ctrl
  /-- `STATUS` (R27). -/
  status : Status
  /-- `CW`, the latched command word (R28). -/
  cw : Word
  /-- `ERRINFO` (R29). -/
  errinfo : Word
  /-- `ECMD` (R30). -/
  ecmd : Word
  /-- `SEQ.SST` (R31). -/
  sst : Sst
  /-- `SEQ.SPC`, the stage pointer, the block's program counter (R31). -/
  spc : BitVec 5
  /-- `SEQ.SDIR` (R31). -/
  sdir : Dir
  /-- `PLEN` (R32). -/
  plen : BitVec 5
  /-- `PCFG[0..15]` (R33). -/
  pcfg : Vector Byte 16
  /-- `PSLOT[0..15]` (R34). -/
  pslot : Vector (BitVec 3) 16
  /-- `W`, the sequencer's working string, live only while `SST` is not `IDLE` (R20, R38). -/
  work : Bytes
  /-- The model's own: the events still to come, in their order (R72); after them the core alone runs. -/
  events : List HostEvent
  /-- The model's own: the reply of the last host transaction. -/
  reply : Option BusReply
  deriving DecidableEq, Repr

/-- Why a step can stop. -/
inductive Fault where
  /-- Raised by the sequencer's instructions (`PENC`, `PDEC`, the stage tags) in a sequencer state for which R328 to R330
  list no core step, such as `RUN` with `SPC` outside the program. Safe: the model stops where the spec describes no
  machine, and no reachable state is one. -/
  | noCoreStep
  deriving DecidableEq, Repr

/-- Why an instruction has no meaning. -/
inductive Refusal where
  /-- Raised by an arm of `exec` for an instruction that is not modelled; no arm raises it. Safe. -/
  | notModelled (mnemonic : String)
  deriving DecidableEq, Repr

/-- The initial MD5 context (42_md5.md R161): `MD.H = IV, MD.buf = "", MD.len = 0`. -/
def Md5Ctx.init : Md5Ctx where
  h := ⟨0x67452301#32, 0xEFCDAB89#32, 0x98BADCFE#32, 0x10325476#32⟩
  buf := []
  len := 0#64

/-- The state after reset (R41) of a block with the given parameter. The spec leaves `W` unspecified and unobservable;
it is empty here. -/
def State.resetWith (cfg : Config) : State where
  cfg := cfg
  bufs := Vector.replicate 4 []
  slots := Vector.replicate 8 ⟨[], []⟩
  md := Md5Ctx.init
  ctrl := ⟨false, false, false, true, false⟩
  status := ⟨false, false, false, false, 0#8⟩
  cw := 0#32
  errinfo := 0#32
  ecmd := 0#32
  sst := .idle
  spc := 0#5
  sdir := .enc
  plen := 0#5
  pcfg := Vector.replicate 16 0#8
  pslot := Vector.replicate 16 0#3
  work := []
  events := []
  reply := none

/-- The machine right after reset (R41), with R6's default parameter and no host transaction pending. -/
def State.reset : State := State.resetWith Config.default

end Sys2Proof.Machine
end

