-- ==== Sys2Proof/Machine/Flags.lean ====
section
/-! DEFINITION. The block's flags: how issue, completion and a fault change `STATUS` (10_state.md R27, R28;
40_system_buffer.md R120; 60_exceptions.md R364), the register views of `CTRL`, `STATUS` and `SEQ`, and `irq` (R40). -/

namespace Sys2Proof.Machine

/-- An accepted `CMD` write: `BUSY <- 1; DONE <- 0` (R28). -/
def statusIssued (st : Status) : Status :=
  { st with busy := true, done := false }

/-- The commit of a command that ends without fault: `BUSY <- 0; DONE <- 1` (R120). -/
def statusCompleted (st : Status) : Status :=
  { st with busy := false, done := true }

/-- Fault entry: `ERR <- code; FAULT <- 1; BUSY <- 0` (R364). -/
def statusFaulted (code : BitVec 8) (st : Status) : Status :=
  { st with busy := false, fault := true, err := code }

/-- `ERRCLR`: `FAULT <- 0; ERR <- 0` (R122). -/
def statusFaultCleared (st : Status) : Status :=
  { st with fault := false, err := 0#8 }

/-- A write dropped because of `BUSY` or `FAULT` sets `OVR` (R70, R71). -/
def statusOverrun (st : Status) : Status :=
  { st with ovr := true }

/-- A host write of `v` to `STATUS`: a 1 in bit 1 clears `DONE`, a 1 in bit 3 clears `OVR` (R27). -/
def statusWriteOneToClear (v : Word) (st : Status) : Status :=
  { st with done := st.done && !v.getLsbD 1, ovr := st.ovr && !v.getLsbD 3 }

/-- The value read from `STATUS` (R27). -/
def statusWord (st : Status) : Word :=
  0#16 ++ st.err ++ 0#4 ++ BitVec.ofBool st.ovr ++ BitVec.ofBool st.fault ++ BitVec.ofBool st.done
    ++ BitVec.ofBool st.busy

/-- The value read from `CTRL` (R26): `CHRSZ` reads 8, `SRST` and the reserved bits read 0. -/
def ctrlWord (c : Ctrl) : Word :=
  0#16 ++ 8#8 ++ 0#1 ++ BitVec.ofBool c.padChk ++ BitVec.ofBool c.b64Pad ++ BitVec.ofBool c.hexCase ++ 0#1
    ++ BitVec.ofBool c.ieErr ++ BitVec.ofBool c.ieDone ++ 0#1

/-- The fields a write of `v` to `CTRL` with `SRST` 0 stores (R26); writes to the other bits are ignored. -/
def ctrlOfWord (v : Word) : Ctrl where
  ieDone := v.getLsbD 1
  ieErr := v.getLsbD 2
  hexCase := v.getLsbD 4
  b64Pad := v.getLsbD 5
  padChk := v.getLsbD 6

/-- The code of `SST` in `SEQ` (R31). -/
def sstCode : Sst → BitVec 2
  | .idle => 0#2
  | .run => 1#2
  | .post => 2#2

/-- The code of `SDIR` in `SEQ` (R31). -/
def dirCode : Dir → BitVec 1
  | .enc => 0#1
  | .dec => 1#1

/-- The value read from `SEQ` (R31): `SST` in bits 1:0, `SPC` in bits 8:4, `SDIR` in bit 12. -/
def seqWord (s : State) : Word :=
  0#19 ++ dirCode s.sdir ++ 0#3 ++ s.spc ++ 0#2 ++ sstCode s.sst

/-- The output `irq = (CTRL.IE_DONE & STATUS.DONE) | (CTRL.IE_ERR & STATUS.FAULT)` (R40, 60_exceptions.md R369). -/
def irq (s : State) : Bool :=
  (s.ctrl.ieDone && s.status.done) || (s.ctrl.ieErr && s.status.fault)

end Sys2Proof.Machine
end

