-- ==== Sys2Proof/Machine/Ops.lean ====
section
/-! DEFINITION. The named operations over the state: byte strings (00_scope.md R8), reading and writing buffers and key
slots (R10), taking a fault (60_exceptions.md R364) and returning from one (R122, R367), and the ways a command ends
(40_system_buffer.md R120). -/

namespace Sys2Proof.Machine

/-- `xor(x, y)`, bytewise (R8). -/
def xorBytes (x y : Bytes) : Bytes :=
  List.zipWith (· ^^^ ·) x y

/-- `x[a .. a + n)` (R8). -/
def slice (x : Bytes) (a n : Nat) : Bytes :=
  (x.drop a).take n

/-- `le32(x, i)` (R8). -/
def le32 (x : Bytes) (i : Nat) : Word :=
  x.getD (i + 3) 0#8 ++ x.getD (i + 2) 0#8 ++ x.getD (i + 1) 0#8 ++ x.getD i 0#8

/-- `bytes_le32(w)` (R8). -/
def bytesLe32 (w : Word) : Bytes :=
  [w.extractLsb' 0 8, w.extractLsb' 8 8, w.extractLsb' 16 8, w.extractLsb' 24 8]

/-- `le64_bytes(v)` (R8). -/
def bytesLe64 (v : BitVec 64) : Bytes :=
  bytesLe32 (v.extractLsb' 0 32) ++ bytesLe32 (v.extractLsb' 32 32)

/-- `BUF[b]` (R10). -/
def buf (s : State) (b : BitVec 2) : Bytes :=
  s.bufs[b.toNat]'b.isLt

/-- `BUF[b] <- v` (R10): the value and with it `BLEN[b]`. -/
def setBuf (b : BitVec 2) (v : Bytes) (s : State) : State :=
  { s with bufs := s.bufs.set b.toNat v b.isLt }

/-- `KS[k]` (R10). -/
def slot (s : State) (k : BitVec 3) : KeySlot :=
  s.slots[k.toNat]'k.isLt

/-- `KS[k].key <- v`, leaving the IV (R10, R23). -/
def setKey (k : BitVec 3) (v : Bytes) (s : State) : State :=
  { s with slots := s.slots.set k.toNat { slot s k with key := v } k.isLt }

/-- `KS[k].iv <- v`, leaving the key (R10, R23). -/
def setIv (k : BitVec 3) (v : Bytes) (s : State) : State :=
  { s with slots := s.slots.set k.toNat { slot s k with iv := v } k.isLt }

/-- `PCFG[i]` (R33). -/
def stageTag (s : State) (i : BitVec 4) : Byte :=
  s.pcfg[i.toNat]'i.isLt

/-- `PCFG[i] <- t` (R33). -/
def setStageTag (i : BitVec 4) (t : Byte) (s : State) : State :=
  { s with pcfg := s.pcfg.set i.toNat t i.isLt }

/-- `PSLOT[i]` (R34). -/
def stageSlot (s : State) (i : BitVec 4) : BitVec 3 :=
  s.pslot[i.toNat]'i.isLt

/-- `PSLOT[i] <- k` (R34). -/
def setStageSlot (i : BitVec 4) (k : BitVec 3) (s : State) : State :=
  { s with pslot := s.pslot.set i.toNat k i.isLt }

/-- A fault a command raises, with what its information value is made of (R361). -/
inductive Raise where
  /-- `E_ILLEGAL`. -/
  | illegal
  /-- `E_MALFORMED(offset)`. -/
  | malformed (offset : Nat)
  /-- `E_KEYLEN`: of the key (`false`) or of the IV (`true`). -/
  | keyLen (iv : Bool)
  /-- `E_LEN(length)`. -/
  | len (length : Nat)
  /-- `E_OVERFLOW(length)`. -/
  | overflow (length : Nat)
  /-- `E_RANGE(off << 6 | len)`. -/
  | range (off len : BitVec 6)
  /-- `E_STAGE(tag)`. -/
  | stage (tag : Byte)
  /-- `E_PAD(k)`. -/
  | pad (k : Byte)
  deriving DecidableEq, Repr

/-- The fault code, `STATUS.ERR` (R361). -/
def raiseCode : Raise → BitVec 8
  | .illegal => 0x01#8
  | .malformed _ => 0x02#8
  | .keyLen _ => 0x03#8
  | .len _ => 0x04#8
  | .overflow _ => 0x05#8
  | .range _ _ => 0x06#8
  | .stage _ => 0x07#8
  | .pad _ => 0x08#8

/-- The information value, `ERRINFO.INFO`, 24 bits (R361). -/
def raiseInfo : Raise → BitVec 24
  | .illegal => 0#24
  | .malformed offset => BitVec.ofNat 24 offset
  | .keyLen iv => if iv then 1#24 else 0#24
  | .len length => BitVec.ofNat 24 length
  | .overflow length => BitVec.ofNat 24 length
  | .range off len => 0#12 ++ off ++ len
  | .stage tag => 0#16 ++ tag
  | .pad k => 0#16 ++ k

/-- `ERRINFO` (R29): `INFO` in bits 23:0; for a fault raised by a pipeline stage, `STG` in bits 28:24 and bit 31. -/
def errinfoWord (info : BitVec 24) (stg : Option (BitVec 5)) : Word :=
  match stg with
  | none => 0#8 ++ info
  | some i => 1#1 ++ 0#2 ++ i ++ info

/-- Fault entry (R364): the fault record, `BUSY <- 0` and `SST <- IDLE`, instead of the command's commit. `stg` is the
stage index for a fault raised by a pipeline stage (47_pipeline.md R331), `none` otherwise; `W` is dropped (R331). -/
def takeFault (r : Raise) (stg : Option (BitVec 5)) (s : State) : State :=
  { s with
    status := statusFaulted (raiseCode r) s.status
    errinfo := errinfoWord (raiseInfo r) stg
    ecmd := s.cw
    sst := .idle
    work := [] }

/-- The return from a fault (R122, R367): `STATUS.FAULT`, `STATUS.ERR`, `ERRINFO`, `ECMD` cleared, nothing else. -/
def clearFault (s : State) : State :=
  { s with status := statusFaultCleared s.status, errinfo := 0#32, ecmd := 0#32 }

/-- The flags part of a commit, `BUSY <- 0; DONE <- 1` (R120). -/
def complete (s : State) : State :=
  { s with status := statusCompleted s.status }

/-- The outcomes of a step of the block. -/
abbrev Result := Host.Outcome State Fault Refusal

/-- A command ends (R120): with its commit, or with the first fault its checks or its unit raise. -/
def retire (s : State) (r : Except Raise State) : Result :=
  match r with
  | .ok t => .next (complete t)
  | .error e => .next (takeFault e none s)

/-- A command whose one result goes to buffer `rd`. -/
def retireBuf (rd : BitVec 2) (s : State) (r : Except Raise Bytes) : Result :=
  retire s (r.map fun v => setBuf rd v s)

end Sys2Proof.Machine
end

