-- ==== Sys2Proof/Machine/Operands.lean ====
section
/-! DEFINITION. The operand forms that are more than a register number: the digest format `fmt` and the cipher selector
`c` of 30_encoding.md R93, with the sizes of 45_cbc.md R281. -/

namespace Sys2Proof.Machine

/-- The digest formats of R93. -/
inductive DigestFormat where
  | raw
  | hex
  | b64
  deriving DecidableEq, Repr

/-- `fmt` (R93): 0 `RAW`, 1 `HEX`, 2 `B64`, 3 reserved (illegal). -/
def digestFormat (fmt : BitVec 2) : Option DigestFormat :=
  if fmt = 0#2 then some .raw else if fmt = 1#2 then some .hex else if fmt = 2#2 then some .b64 else none

/-- The block ciphers of R281. -/
inductive Cipher where
  | des
  | tdes
  | aes
  deriving DecidableEq, Repr

/-- `c` (R93, R281): 0 `DES`, 1 `TDES`, 2 `AES`, 3 reserved (illegal). -/
def cipherSelector (c : BitVec 2) : Option Cipher :=
  if c = 0#2 then some .des else if c = 1#2 then some .tdes else if c = 2#2 then some .aes else none

/-- The block size `n(c)` (R281). -/
def blockLen : Cipher → Nat
  | .des => 8
  | .tdes => 8
  | .aes => 16

/-- The key length `kl(c)` (R281). -/
def keyLen : Cipher → Nat
  | .des => 8
  | .tdes => 24
  | .aes => 16

end Sys2Proof.Machine
end

