-- ==== Sys2Proof/Machine/Des.lean ====
section
/-! DEFINITION. The DES and Triple-DES engine with its subkey schedule, and the meanings of `DESENC`, `DESDEC`,
`TDESENC`, `TDESDEC` (43_des.md). Blocks, halves and subkeys are bit strings numbered from 1, most significant bit first
(R200): lists of bits. -/

namespace Sys2Proof.Machine

/-- A bit string, bit 1 first (R200). -/
abbrev Bits := List Bool

/-- The bits of a byte, most significant first (R200). -/
def bitsOfByte (b : Byte) : Bits :=
  [b.getLsbD 7, b.getLsbD 6, b.getLsbD 5, b.getLsbD 4, b.getLsbD 3, b.getLsbD 2, b.getLsbD 1, b.getLsbD 0]

/-- The bits of a byte string, byte 0 first (R200). -/
def bitsOfBytes (x : Bytes) : Bits :=
  x.flatMap bitsOfByte

/-- The byte of eight bits, most significant first. -/
def byteOfBits (b7 b6 b5 b4 b3 b2 b1 b0 : Bool) : Byte :=
  BitVec.ofBool b7 ++ BitVec.ofBool b6 ++ BitVec.ofBool b5 ++ BitVec.ofBool b4 ++ BitVec.ofBool b3
    ++ BitVec.ofBool b2 ++ BitVec.ofBool b1 ++ BitVec.ofBool b0

/-- The byte string of a bit string (R200). -/
def bytesOfBits : Bits → Bytes
  | b7 :: b6 :: b5 :: b4 :: b3 :: b2 :: b1 :: b0 :: rest => byteOfBits b7 b6 b5 b4 b3 b2 b1 b0 :: bytesOfBits rest
  | _ => []

/-- `Y[j] = X[T[j]]` (R200): entry `j` of the table names the input bit that becomes output bit `j`. -/
def permute (table : List Nat) (x : Bits) : Bits :=
  table.map fun p => x.getD (p - 1) false

/-- Bitwise exclusive or of bit strings. -/
def xorBits (x y : Bits) : Bits :=
  List.zipWith (· ^^ ·) x y

/-- Initial permutation `IP` (R201). -/
def desIP : List Nat :=
  [58, 50, 42, 34, 26, 18, 10, 2,
   60, 52, 44, 36, 28, 20, 12, 4,
   62, 54, 46, 38, 30, 22, 14, 6,
   64, 56, 48, 40, 32, 24, 16, 8,
   57, 49, 41, 33, 25, 17, 9, 1,
   59, 51, 43, 35, 27, 19, 11, 3,
   61, 53, 45, 37, 29, 21, 13, 5,
   63, 55, 47, 39, 31, 23, 15, 7]

/-- Final permutation `FP` (R202). -/
def desFP : List Nat :=
  [40, 8, 48, 16, 56, 24, 64, 32,
   39, 7, 47, 15, 55, 23, 63, 31,
   38, 6, 46, 14, 54, 22, 62, 30,
   37, 5, 45, 13, 53, 21, 61, 29,
   36, 4, 44, 12, 52, 20, 60, 28,
   35, 3, 43, 11, 51, 19, 59, 27,
   34, 2, 42, 10, 50, 18, 58, 26,
   33, 1, 41, 9, 49, 17, 57, 25]

/-- Expansion `E` (R203). -/
def desE : List Nat :=
  [32, 1, 2, 3, 4, 5,
   4, 5, 6, 7, 8, 9,
   8, 9, 10, 11, 12, 13,
   12, 13, 14, 15, 16, 17,
   16, 17, 18, 19, 20, 21,
   20, 21, 22, 23, 24, 25,
   24, 25, 26, 27, 28, 29,
   28, 29, 30, 31, 32, 1]

/-- Permutation `P` (R204). -/
def desP : List Nat :=
  [16, 7, 20, 21,
   29, 12, 28, 17,
   1, 15, 23, 26,
   5, 18, 31, 10,
   2, 8, 24, 14,
   32, 27, 3, 9,
   19, 13, 30, 6,
   22, 11, 4, 25]

/-- Key permutation `PC1` (R206). -/
def desPC1 : List Nat :=
  [57, 49, 41, 33, 25, 17, 9,
   1, 58, 50, 42, 34, 26, 18,
   10, 2, 59, 51, 43, 35, 27,
   19, 11, 3, 60, 52, 44, 36,
   63, 55, 47, 39, 31, 23, 15,
   7, 62, 54, 46, 38, 30, 22,
   14, 6, 61, 53, 45, 37, 29,
   21, 13, 5, 28, 20, 12, 4]

/-- Key permutation `PC2` (R206). -/
def desPC2 : List Nat :=
  [14, 17, 11, 24, 1, 5,
   3, 28, 15, 6, 21, 10,
   23, 19, 12, 4, 26, 8,
   16, 7, 27, 20, 13, 2,
   41, 52, 31, 37, 47, 55,
   30, 40, 51, 45, 33, 48,
   44, 49, 39, 56, 34, 53,
   46, 42, 50, 36, 29, 32]

/-- `S1` (R205), rows 0..3, columns 0..15. -/
def desS1 : List (List Nat) :=
  [[14, 4, 13, 1, 2, 15, 11, 8, 3, 10, 6, 12, 5, 9, 0, 7],
   [0, 15, 7, 4, 14, 2, 13, 1, 10, 6, 12, 11, 9, 5, 3, 8],
   [4, 1, 14, 8, 13, 6, 2, 11, 15, 12, 9, 7, 3, 10, 5, 0],
   [15, 12, 8, 2, 4, 9, 1, 7, 5, 11, 3, 14, 10, 0, 6, 13]]

/-- `S2` (R205), rows 0..3, columns 0..15. -/
def desS2 : List (List Nat) :=
  [[15, 1, 8, 14, 6, 11, 3, 4, 9, 7, 2, 13, 12, 0, 5, 10],
   [3, 13, 4, 7, 15, 2, 8, 14, 12, 0, 1, 10, 6, 9, 11, 5],
   [0, 14, 7, 11, 10, 4, 13, 1, 5, 8, 12, 6, 9, 3, 2, 15],
   [13, 8, 10, 1, 3, 15, 4, 2, 11, 6, 7, 12, 0, 5, 14, 9]]

/-- `S3` (R205), rows 0..3, columns 0..15. -/
def desS3 : List (List Nat) :=
  [[10, 0, 9, 14, 6, 3, 15, 5, 1, 13, 12, 7, 11, 4, 2, 8],
   [13, 7, 0, 9, 3, 4, 6, 10, 2, 8, 5, 14, 12, 11, 15, 1],
   [13, 6, 4, 9, 8, 15, 3, 0, 11, 1, 2, 12, 5, 10, 14, 7],
   [1, 10, 13, 0, 6, 9, 8, 7, 4, 15, 14, 3, 11, 5, 2, 12]]

/-- `S4` (R205), rows 0..3, columns 0..15. -/
def desS4 : List (List Nat) :=
  [[7, 13, 14, 3, 0, 6, 9, 10, 1, 2, 8, 5, 11, 12, 4, 15],
   [13, 8, 11, 5, 6, 15, 0, 3, 4, 7, 2, 12, 1, 10, 14, 9],
   [10, 6, 9, 0, 12, 11, 7, 13, 15, 1, 3, 14, 5, 2, 8, 4],
   [3, 15, 0, 6, 10, 1, 13, 8, 9, 4, 5, 11, 12, 7, 2, 14]]

/-- `S5` (R205), rows 0..3, columns 0..15. -/
def desS5 : List (List Nat) :=
  [[2, 12, 4, 1, 7, 10, 11, 6, 8, 5, 3, 15, 13, 0, 14, 9],
   [14, 11, 2, 12, 4, 7, 13, 1, 5, 0, 15, 10, 3, 9, 8, 6],
   [4, 2, 1, 11, 10, 13, 7, 8, 15, 9, 12, 5, 6, 3, 0, 14],
   [11, 8, 12, 7, 1, 14, 2, 13, 6, 15, 0, 9, 10, 4, 5, 3]]

/-- `S6` (R205), rows 0..3, columns 0..15. -/
def desS6 : List (List Nat) :=
  [[12, 1, 10, 15, 9, 2, 6, 8, 0, 13, 3, 4, 14, 7, 5, 11],
   [10, 15, 4, 2, 7, 12, 9, 5, 6, 1, 13, 14, 0, 11, 3, 8],
   [9, 14, 15, 5, 2, 8, 12, 3, 7, 0, 4, 10, 1, 13, 11, 6],
   [4, 3, 2, 12, 9, 5, 15, 10, 11, 14, 1, 7, 6, 0, 8, 13]]

/-- `S7` (R205), rows 0..3, columns 0..15. -/
def desS7 : List (List Nat) :=
  [[4, 11, 2, 14, 15, 0, 8, 13, 3, 12, 9, 7, 5, 10, 6, 1],
   [13, 0, 11, 7, 4, 9, 1, 10, 14, 3, 5, 12, 2, 15, 8, 6],
   [1, 4, 11, 13, 12, 3, 7, 14, 10, 15, 6, 8, 0, 5, 9, 2],
   [6, 11, 13, 8, 1, 4, 10, 7, 9, 5, 0, 15, 14, 2, 3, 12]]

/-- `S8` (R205), rows 0..3, columns 0..15. -/
def desS8 : List (List Nat) :=
  [[13, 2, 8, 4, 6, 15, 11, 1, 10, 9, 3, 14, 5, 0, 12, 7],
   [1, 15, 13, 8, 10, 3, 7, 4, 12, 5, 6, 11, 0, 14, 9, 2],
   [7, 11, 4, 1, 9, 12, 14, 2, 0, 6, 10, 13, 15, 3, 5, 8],
   [2, 1, 14, 7, 4, 10, 8, 13, 15, 12, 9, 0, 3, 5, 6, 11]]

/-- The eight S-boxes in order (R205). -/
def desSBoxes : List (List (List Nat)) :=
  [desS1, desS2, desS3, desS4, desS5, desS6, desS7, desS8]

/-- The cumulative rotation counts `CUM` (R207). -/
def desRotations : List Nat :=
  [1, 2, 4, 6, 8, 10, 12, 14, 15, 17, 19, 21, 23, 25, 27, 28]

/-- `rotl28(X, s)` (R207): rotate left by `s` within 28 bits. -/
def rotateBits (x : Bits) (s : Nat) : Bits :=
  x.drop s ++ x.take s

/-- `des_subkeys(key)` (R207): sixteen subkeys of 48 bits; the parity bits are never selected. -/
def desSubkeys (key : Bytes) : List Bits :=
  let cd := permute desPC1 (bitsOfBytes key)
  let c0 := cd.take 28
  let d0 := cd.drop 28
  desRotations.map fun s => permute desPC2 (rotateBits c0 s ++ rotateBits d0 s)

/-- A bit as a number. -/
def bitNat (b : Bool) : Nat :=
  if b then 1 else 0

/-- `Sj` of six bits `g1..g6` (R205): row `2 g1 + g6`, column `8 g2 + 4 g3 + 2 g4 + g5`, output most significant bit
first. -/
def desSBox (box : List (List Nat)) (g : Bits) : Bits :=
  let row := 2 * bitNat (g.getD 0 false) + bitNat (g.getD 5 false)
  let col := 8 * bitNat (g.getD 1 false) + 4 * bitNat (g.getD 2 false) + 2 * bitNat (g.getD 3 false)
    + bitNat (g.getD 4 false)
  let v := (box.getD row []).getD col 0
  [v.testBit 3, v.testBit 2, v.testBit 1, v.testBit 0]

/-- `O1 ‖ O2 ‖ ...` (R208): each S-box on its group of six bits, in order. -/
def desSubstitute : List (List (List Nat)) → Bits → Bits
  | [], _ => []
  | box :: boxes, x => desSBox box (x.take 6) ++ desSubstitute boxes (x.drop 6)

/-- `des_f(R, K)` (R208). -/
def desF (r k : Bits) : Bits :=
  permute desP (desSubstitute desSBoxes (xorBits (permute desE r) k))

/-- One Feistel round (R209): `(L, R) = (R, L xor des_f(R, K))`. -/
def desRound (lr : Bits × Bits) (k : Bits) : Bits × Bits :=
  (lr.2, xorBits lr.1 (desF lr.2 k))

/-- `des_crypt(block, K[1..16])` (R209): the rounds between `IP` and `FP`, the last swap undone. -/
def desCrypt (keys : List Bits) (block : Bytes) : Bytes :=
  let b := permute desIP (bitsOfBytes block)
  let lr := keys.foldl desRound (b.take 32, b.drop 32)
  bytesOfBits (permute desFP (lr.2 ++ lr.1))

/-- `des_enc(block, key)` (R209). -/
def desEnc (key block : Bytes) : Bytes :=
  desCrypt (desSubkeys key) block

/-- `des_dec(block, key)` (R210): the subkeys in reverse order. -/
def desDec (key block : Bytes) : Bytes :=
  desCrypt (desSubkeys key).reverse block

/-- `tdes_enc(block, key)` (R211): EDE with `K1`, `K2`, `K3` the three thirds of the key. -/
def tdesEnc (key block : Bytes) : Bytes :=
  desEnc (slice key 16 8) (desDec (slice key 8 8) (desEnc (slice key 0 8) block))

/-- `tdes_dec(block, key)` (R212), the inverse ordering. -/
def tdesDec (key block : Bytes) : Bytes :=
  desDec (slice key 0 8) (desEnc (slice key 8 8) (desDec (slice key 16 8) block))

/-- One block through a block cipher (R213 to R216, R252, R253): the key length is checked first, then that the input is
exactly one block; the IV is not used and not checked. -/
def blockChecked (c : Cipher) (crypt : Bytes → Bytes → Bytes) (k : KeySlot) (x : Bytes) : Except Raise Bytes :=
  if k.key.length ≠ keyLen c then .error (.keyLen false)
  else if x.length ≠ blockLen c then .error (.len x.length)
  else .ok (crypt k.key x)

/-- `DESENC Bd, Ba, Kk` (R213). -/
def execDesenc (rd ra : BitVec 2) (k : BitVec 3) (s : State) : Result :=
  retireBuf rd s (blockChecked .des desEnc (slot s k) (buf s ra))

/-- `DESDEC Bd, Ba, Kk` (R214). -/
def execDesdec (rd ra : BitVec 2) (k : BitVec 3) (s : State) : Result :=
  retireBuf rd s (blockChecked .des desDec (slot s k) (buf s ra))

/-- `TDESENC Bd, Ba, Kk` (R215). -/
def execTdesenc (rd ra : BitVec 2) (k : BitVec 3) (s : State) : Result :=
  retireBuf rd s (blockChecked .tdes tdesEnc (slot s k) (buf s ra))

/-- `TDESDEC Bd, Ba, Kk` (R216). -/
def execTdesdec (rd ra : BitVec 2) (k : BitVec 3) (s : State) : Result :=
  retireBuf rd s (blockChecked .tdes tdesDec (slot s k) (buf s ra))

end Sys2Proof.Machine
end

