-- ==== Sys2Proof/Machine/Aes.lean ====
section
/-! DEFINITION. The AES-128 engine with its key schedule, and the meanings of `AESENC`, `AESDEC` (44_aes.md). The state
array is the byte string of the block itself: element row `r`, column `c` is byte `r + 4c` (R240). -/

namespace Sys2Proof.Machine

/-- Multiplication by 2 in the field of R241. -/
def xtime (a : Byte) : Byte :=
  (a <<< 1) ^^^ (if a.getLsbD 7 then 0x1B#8 else 0#8)

/-- Multiplication by 3 (R241). -/
def mul3 (a : Byte) : Byte :=
  xtime a ^^^ a

/-- Multiplication by 9 (R241). -/
def mul9 (a : Byte) : Byte :=
  xtime (xtime (xtime a)) ^^^ a

/-- Multiplication by 11 (R241). -/
def mul11 (a : Byte) : Byte :=
  xtime (xtime (xtime a)) ^^^ xtime a ^^^ a

/-- Multiplication by 13 (R241). -/
def mul13 (a : Byte) : Byte :=
  xtime (xtime (xtime a)) ^^^ xtime (xtime a) ^^^ a

/-- Multiplication by 14 (R241). -/
def mul14 (a : Byte) : Byte :=
  xtime (xtime (xtime a)) ^^^ xtime (xtime a) ^^^ xtime a

/-- `SBOX[0..255]` (R242). -/
def aesSBoxTable : Bytes :=
  [0x63#8, 0x7c#8, 0x77#8, 0x7b#8, 0xf2#8, 0x6b#8, 0x6f#8, 0xc5#8, 0x30#8, 0x01#8, 0x67#8, 0x2b#8, 0xfe#8, 0xd7#8, 0xab#8, 0x76#8,
   0xca#8, 0x82#8, 0xc9#8, 0x7d#8, 0xfa#8, 0x59#8, 0x47#8, 0xf0#8, 0xad#8, 0xd4#8, 0xa2#8, 0xaf#8, 0x9c#8, 0xa4#8, 0x72#8, 0xc0#8,
   0xb7#8, 0xfd#8, 0x93#8, 0x26#8, 0x36#8, 0x3f#8, 0xf7#8, 0xcc#8, 0x34#8, 0xa5#8, 0xe5#8, 0xf1#8, 0x71#8, 0xd8#8, 0x31#8, 0x15#8,
   0x04#8, 0xc7#8, 0x23#8, 0xc3#8, 0x18#8, 0x96#8, 0x05#8, 0x9a#8, 0x07#8, 0x12#8, 0x80#8, 0xe2#8, 0xeb#8, 0x27#8, 0xb2#8, 0x75#8] ++
  [0x09#8, 0x83#8, 0x2c#8, 0x1a#8, 0x1b#8, 0x6e#8, 0x5a#8, 0xa0#8, 0x52#8, 0x3b#8, 0xd6#8, 0xb3#8, 0x29#8, 0xe3#8, 0x2f#8, 0x84#8,
   0x53#8, 0xd1#8, 0x00#8, 0xed#8, 0x20#8, 0xfc#8, 0xb1#8, 0x5b#8, 0x6a#8, 0xcb#8, 0xbe#8, 0x39#8, 0x4a#8, 0x4c#8, 0x58#8, 0xcf#8,
   0xd0#8, 0xef#8, 0xaa#8, 0xfb#8, 0x43#8, 0x4d#8, 0x33#8, 0x85#8, 0x45#8, 0xf9#8, 0x02#8, 0x7f#8, 0x50#8, 0x3c#8, 0x9f#8, 0xa8#8,
   0x51#8, 0xa3#8, 0x40#8, 0x8f#8, 0x92#8, 0x9d#8, 0x38#8, 0xf5#8, 0xbc#8, 0xb6#8, 0xda#8, 0x21#8, 0x10#8, 0xff#8, 0xf3#8, 0xd2#8] ++
  [0xcd#8, 0x0c#8, 0x13#8, 0xec#8, 0x5f#8, 0x97#8, 0x44#8, 0x17#8, 0xc4#8, 0xa7#8, 0x7e#8, 0x3d#8, 0x64#8, 0x5d#8, 0x19#8, 0x73#8,
   0x60#8, 0x81#8, 0x4f#8, 0xdc#8, 0x22#8, 0x2a#8, 0x90#8, 0x88#8, 0x46#8, 0xee#8, 0xb8#8, 0x14#8, 0xde#8, 0x5e#8, 0x0b#8, 0xdb#8,
   0xe0#8, 0x32#8, 0x3a#8, 0x0a#8, 0x49#8, 0x06#8, 0x24#8, 0x5c#8, 0xc2#8, 0xd3#8, 0xac#8, 0x62#8, 0x91#8, 0x95#8, 0xe4#8, 0x79#8,
   0xe7#8, 0xc8#8, 0x37#8, 0x6d#8, 0x8d#8, 0xd5#8, 0x4e#8, 0xa9#8, 0x6c#8, 0x56#8, 0xf4#8, 0xea#8, 0x65#8, 0x7a#8, 0xae#8, 0x08#8] ++
  [0xba#8, 0x78#8, 0x25#8, 0x2e#8, 0x1c#8, 0xa6#8, 0xb4#8, 0xc6#8, 0xe8#8, 0xdd#8, 0x74#8, 0x1f#8, 0x4b#8, 0xbd#8, 0x8b#8, 0x8a#8,
   0x70#8, 0x3e#8, 0xb5#8, 0x66#8, 0x48#8, 0x03#8, 0xf6#8, 0x0e#8, 0x61#8, 0x35#8, 0x57#8, 0xb9#8, 0x86#8, 0xc1#8, 0x1d#8, 0x9e#8,
   0xe1#8, 0xf8#8, 0x98#8, 0x11#8, 0x69#8, 0xd9#8, 0x8e#8, 0x94#8, 0x9b#8, 0x1e#8, 0x87#8, 0xe9#8, 0xce#8, 0x55#8, 0x28#8, 0xdf#8,
   0x8c#8, 0xa1#8, 0x89#8, 0x0d#8, 0xbf#8, 0xe6#8, 0x42#8, 0x68#8, 0x41#8, 0x99#8, 0x2d#8, 0x0f#8, 0xb0#8, 0x54#8, 0xbb#8, 0x16#8]

/-- `ISBOX[0..255]` (R243). -/
def aesInvSBoxTable : Bytes :=
  [0x52#8, 0x09#8, 0x6a#8, 0xd5#8, 0x30#8, 0x36#8, 0xa5#8, 0x38#8, 0xbf#8, 0x40#8, 0xa3#8, 0x9e#8, 0x81#8, 0xf3#8, 0xd7#8, 0xfb#8,
   0x7c#8, 0xe3#8, 0x39#8, 0x82#8, 0x9b#8, 0x2f#8, 0xff#8, 0x87#8, 0x34#8, 0x8e#8, 0x43#8, 0x44#8, 0xc4#8, 0xde#8, 0xe9#8, 0xcb#8,
   0x54#8, 0x7b#8, 0x94#8, 0x32#8, 0xa6#8, 0xc2#8, 0x23#8, 0x3d#8, 0xee#8, 0x4c#8, 0x95#8, 0x0b#8, 0x42#8, 0xfa#8, 0xc3#8, 0x4e#8,
   0x08#8, 0x2e#8, 0xa1#8, 0x66#8, 0x28#8, 0xd9#8, 0x24#8, 0xb2#8, 0x76#8, 0x5b#8, 0xa2#8, 0x49#8, 0x6d#8, 0x8b#8, 0xd1#8, 0x25#8] ++
  [0x72#8, 0xf8#8, 0xf6#8, 0x64#8, 0x86#8, 0x68#8, 0x98#8, 0x16#8, 0xd4#8, 0xa4#8, 0x5c#8, 0xcc#8, 0x5d#8, 0x65#8, 0xb6#8, 0x92#8,
   0x6c#8, 0x70#8, 0x48#8, 0x50#8, 0xfd#8, 0xed#8, 0xb9#8, 0xda#8, 0x5e#8, 0x15#8, 0x46#8, 0x57#8, 0xa7#8, 0x8d#8, 0x9d#8, 0x84#8,
   0x90#8, 0xd8#8, 0xab#8, 0x00#8, 0x8c#8, 0xbc#8, 0xd3#8, 0x0a#8, 0xf7#8, 0xe4#8, 0x58#8, 0x05#8, 0xb8#8, 0xb3#8, 0x45#8, 0x06#8,
   0xd0#8, 0x2c#8, 0x1e#8, 0x8f#8, 0xca#8, 0x3f#8, 0x0f#8, 0x02#8, 0xc1#8, 0xaf#8, 0xbd#8, 0x03#8, 0x01#8, 0x13#8, 0x8a#8, 0x6b#8] ++
  [0x3a#8, 0x91#8, 0x11#8, 0x41#8, 0x4f#8, 0x67#8, 0xdc#8, 0xea#8, 0x97#8, 0xf2#8, 0xcf#8, 0xce#8, 0xf0#8, 0xb4#8, 0xe6#8, 0x73#8,
   0x96#8, 0xac#8, 0x74#8, 0x22#8, 0xe7#8, 0xad#8, 0x35#8, 0x85#8, 0xe2#8, 0xf9#8, 0x37#8, 0xe8#8, 0x1c#8, 0x75#8, 0xdf#8, 0x6e#8,
   0x47#8, 0xf1#8, 0x1a#8, 0x71#8, 0x1d#8, 0x29#8, 0xc5#8, 0x89#8, 0x6f#8, 0xb7#8, 0x62#8, 0x0e#8, 0xaa#8, 0x18#8, 0xbe#8, 0x1b#8,
   0xfc#8, 0x56#8, 0x3e#8, 0x4b#8, 0xc6#8, 0xd2#8, 0x79#8, 0x20#8, 0x9a#8, 0xdb#8, 0xc0#8, 0xfe#8, 0x78#8, 0xcd#8, 0x5a#8, 0xf4#8] ++
  [0x1f#8, 0xdd#8, 0xa8#8, 0x33#8, 0x88#8, 0x07#8, 0xc7#8, 0x31#8, 0xb1#8, 0x12#8, 0x10#8, 0x59#8, 0x27#8, 0x80#8, 0xec#8, 0x5f#8,
   0x60#8, 0x51#8, 0x7f#8, 0xa9#8, 0x19#8, 0xb5#8, 0x4a#8, 0x0d#8, 0x2d#8, 0xe5#8, 0x7a#8, 0x9f#8, 0x93#8, 0xc9#8, 0x9c#8, 0xef#8,
   0xa0#8, 0xe0#8, 0x3b#8, 0x4d#8, 0xae#8, 0x2a#8, 0xf5#8, 0xb0#8, 0xc8#8, 0xeb#8, 0xbb#8, 0x3c#8, 0x83#8, 0x53#8, 0x99#8, 0x61#8,
   0x17#8, 0x2b#8, 0x04#8, 0x7e#8, 0xba#8, 0x77#8, 0xd6#8, 0x26#8, 0xe1#8, 0x69#8, 0x14#8, 0x63#8, 0x55#8, 0x21#8, 0x0c#8, 0x7d#8]

/-- `SBOX[x]` (R242). -/
def aesSBox (x : Byte) : Byte :=
  aesSBoxTable.getD x.toNat 0#8

/-- `ISBOX[x]` (R243). -/
def aesInvSBox (x : Byte) : Byte :=
  aesInvSBoxTable.getD x.toNat 0#8

/-- The round constants `RCON[1..10]` (R244), entry `j - 1` for `RCON[j]`. -/
def aesRcon : Bytes :=
  [0x01#8, 0x02#8, 0x04#8, 0x08#8, 0x10#8, 0x20#8, 0x40#8, 0x80#8, 0x1B#8, 0x36#8]

/-- The transformation of every fourth schedule word (R245): byte rotation, substitution, round constant. -/
def aesKeyCore (rcon : Byte) (t : Bytes) : Bytes :=
  xorBytes ((t.drop 1 ++ t.take 1).map aesSBox) [rcon, 0#8, 0#8, 0#8]

/-- Schedule word `w[i]` appended to the words before it (R245), for `i` in 4..43. -/
def aesExpandStep (w : List Bytes) (i : Nat) : List Bytes :=
  let t := w.getD (i - 1) []
  let t' := if i % 4 = 0 then aesKeyCore (aesRcon.getD (i / 4 - 1) 0#8) t else t
  w ++ [xorBytes (w.getD (i - 4) []) t']

/-- `aes_expand(key)` (R245): the words `w[0..43]`. -/
def aesExpand (key : Bytes) : List Bytes :=
  (List.range' 4 40).foldl aesExpandStep [slice key 0 4, slice key 4 4, slice key 8 4, slice key 12 4]

/-- Round key `r`: the words `w[4r .. 4r+3]`, word `w[4r+c]` being column `c` (R245). -/
def aesRoundKey (w : List Bytes) (r : Nat) : Bytes :=
  w.getD (4 * r) [] ++ w.getD (4 * r + 1) [] ++ w.getD (4 * r + 2) [] ++ w.getD (4 * r + 3) []

/-- `SubBytes` (R246). -/
def aesSubBytes (s : Bytes) : Bytes :=
  s.map aesSBox

/-- `InvSubBytes` (R246). -/
def aesInvSubBytes (s : Bytes) : Bytes :=
  s.map aesInvSBox

/-- `ShiftRows` (R246): byte `r + 4c` of the result is byte `r + 4((c + r) mod 4)`. -/
def aesShiftRows (s : Bytes) : Bytes :=
  (List.range 16).map fun i => s.getD (i % 4 + 4 * ((i / 4 + i % 4) % 4)) 0#8

/-- `InvShiftRows` (R246): byte `r + 4c` of the result is byte `r + 4((c - r) mod 4)`. -/
def aesInvShiftRows (s : Bytes) : Bytes :=
  (List.range 16).map fun i => s.getD (i % 4 + 4 * ((i / 4 + 4 - i % 4) % 4)) 0#8

/-- `MixColumns` (R247), column by column. -/
def aesMixColumns : Bytes → Bytes
  | a0 :: a1 :: a2 :: a3 :: rest =>
    (xtime a0 ^^^ mul3 a1 ^^^ a2 ^^^ a3) :: (a0 ^^^ xtime a1 ^^^ mul3 a2 ^^^ a3) ::
    (a0 ^^^ a1 ^^^ xtime a2 ^^^ mul3 a3) :: (mul3 a0 ^^^ a1 ^^^ a2 ^^^ xtime a3) :: aesMixColumns rest
  | _ => []

/-- `InvMixColumns` (R247). -/
def aesInvMixColumns : Bytes → Bytes
  | a0 :: a1 :: a2 :: a3 :: rest =>
    (mul14 a0 ^^^ mul11 a1 ^^^ mul13 a2 ^^^ mul9 a3) :: (mul9 a0 ^^^ mul14 a1 ^^^ mul11 a2 ^^^ mul13 a3) ::
    (mul13 a0 ^^^ mul9 a1 ^^^ mul14 a2 ^^^ mul11 a3) :: (mul11 a0 ^^^ mul13 a1 ^^^ mul9 a2 ^^^ mul14 a3) ::
    aesInvMixColumns rest
  | _ => []

/-- `AddRoundKey(s, r)` (R248). -/
def aesAddRoundKey (w : List Bytes) (r : Nat) (s : Bytes) : Bytes :=
  xorBytes s (aesRoundKey w r)

/-- `aes_enc(block, key)` (R250). -/
def aesEnc (key block : Bytes) : Bytes :=
  let w := aesExpand key
  let s := (List.range' 1 9).foldl
    (fun s r => aesAddRoundKey w r (aesMixColumns (aesShiftRows (aesSubBytes s)))) (aesAddRoundKey w 0 block)
  aesAddRoundKey w 10 (aesShiftRows (aesSubBytes s))

/-- `aes_dec(block, key)` (R251). -/
def aesDec (key block : Bytes) : Bytes :=
  let w := aesExpand key
  let s := (List.range' 1 9).reverse.foldl
    (fun s r => aesInvMixColumns (aesAddRoundKey w r (aesInvSubBytes (aesInvShiftRows s))))
    (aesAddRoundKey w 10 block)
  aesAddRoundKey w 0 (aesInvSubBytes (aesInvShiftRows s))

/-- `AESENC Bd, Ba, Kk` (R252). -/
def execAesenc (rd ra : BitVec 2) (k : BitVec 3) (s : State) : Result :=
  retireBuf rd s (blockChecked .aes aesEnc (slot s k) (buf s ra))

/-- `AESDEC Bd, Ba, Kk` (R253). -/
def execAesdec (rd ra : BitVec 2) (k : BitVec 3) (s : State) : Result :=
  retireBuf rd s (blockChecked .aes aesDec (slot s k) (buf s ra))

end Sys2Proof.Machine
end

