-- ==== Sys2Proof/Machine/Base64.lean ====
section
/-! DEFINITION. The Base64 encoder and decoder, the UTF-8 check, and the meanings of `B64ENC`, `B64DEC`, `U8CHK`
(41_base64.md). -/

namespace Sys2Proof.Machine

/-- `ALPHA[v]` (R140). -/
def alpha (v : BitVec 6) : Byte :=
  let n := v.toNat
  if n < 26 then BitVec.ofNat 8 (0x41 + n)
  else if n < 52 then BitVec.ofNat 8 (0x61 + (n - 26))
  else if n < 62 then BitVec.ofNat 8 (0x30 + (n - 52))
  else if n = 62 then 0x2B#8
  else 0x2F#8

/-- `VAL[byte]` (R140), the inverse of `ALPHA`, defined on the 64 alphabet bytes only. -/
def alphaVal (t : Byte) : Option (BitVec 6) :=
  let n := t.toNat
  if 0x41 ≤ n ∧ n ≤ 0x5A then some (BitVec.ofNat 6 (n - 0x41))
  else if 0x61 ≤ n ∧ n ≤ 0x7A then some (BitVec.ofNat 6 (n - 0x61 + 26))
  else if 0x30 ≤ n ∧ n ≤ 0x39 then some (BitVec.ofNat 6 (n - 0x30 + 52))
  else if n = 0x2B then some 62#6
  else if n = 0x2F then some 63#6
  else none

/-- The padding character `=` (R140). -/
def padChar : Byte := 0x3D#8

/-- The first two characters of a group, from its 24-bit value (R141). -/
def b64Head (v : BitVec 24) : Bytes :=
  [alpha (v.extractLsb' 18 6), alpha (v.extractLsb' 12 6)]

/-- `b64enc(x, pad)` (R141). -/
def b64enc (pad : Bool) : Bytes → Bytes
  | [] => []
  | [x0] => b64Head (x0 ++ 0#8 ++ 0#8) ++ (if pad then [padChar, padChar] else [])
  | [x0, x1] =>
    let v := x0 ++ x1 ++ 0#8
    b64Head v ++ alpha (v.extractLsb' 6 6) :: (if pad then [padChar] else [])
  | x0 :: x1 :: x2 :: rest =>
    let v := x0 ++ x1 ++ x2
    b64Head v ++ [alpha (v.extractLsb' 6 6), alpha (v.extractLsb' 0 6)] ++ b64enc pad rest

/-- The padded length of the encoding of `n` bytes, `4 ceil(n / 3)` (R141, R146). -/
def b64Len (n : Nat) : Nat :=
  4 * ((n + 2) / 3)

/-- Steps 1 and 2 of R143: the values of the alphabet bytes before the first `=`, everything else stripped. -/
def b64Strip : Bytes → List (BitVec 6)
  | [] => []
  | t :: rest =>
    if t = padChar then []
    else match alphaVal t with
      | some v => v :: b64Strip rest
      | none => b64Strip rest

/-- Step 3 of R143: the sextets are shifted into `acc`; a byte comes out whenever 8 bits are there. -/
def b64Bytes (acc : BitVec 24) (nb : Nat) : List (BitVec 6) → Bytes
  | [] => []
  | v :: rest =>
    let acc' := acc.extractLsb' 0 18 ++ v
    let nb' := nb + 6
    if nb' ≥ 8 then (acc' >>> (nb' - 8)).extractLsb' 0 8 :: b64Bytes acc' (nb' - 8) rest
    else b64Bytes acc' nb' rest

/-- `b64dec(t)` (R143), total: characters outside the alphabet are dropped, leftover bits are dropped. -/
def b64dec (t : Bytes) : Bytes :=
  b64Bytes 0#24 0 (b64Strip t)

/-- The row of R145's table for a lead byte: how many continuation bytes it needs and the range of the first of them. -/
def utf8Row (b : Byte) : Option (Nat × Nat × Nat) :=
  let n := b.toNat
  if n ≤ 0x7F then some (0, 0, 0)
  else if 0xC2 ≤ n ∧ n ≤ 0xDF then some (1, 0x80, 0xBF)
  else if n = 0xE0 then some (2, 0xA0, 0xBF)
  else if n = 0xED then some (2, 0x80, 0x9F)
  else if 0xE1 ≤ n ∧ n ≤ 0xEF then some (2, 0x80, 0xBF)
  else if n = 0xF0 then some (3, 0x90, 0xBF)
  else if 0xF1 ≤ n ∧ n ≤ 0xF3 then some (3, 0x80, 0xBF)
  else if n = 0xF4 then some (3, 0x80, 0x8F)
  else none

/-- A byte in a closed range. -/
def byteIn (lo hi : Nat) (b : Byte) : Bool :=
  lo ≤ b.toNat && b.toNat ≤ hi

/-- The sequence at the start of `x`, if it is well formed: the number of its continuation bytes (R145). -/
def utf8Need (x : Bytes) : Option Nat :=
  match x with
  | [] => none
  | b :: rest =>
    match utf8Row b with
    | none => none
    | some (need, lo, hi) =>
      if need ≤ rest.length ∧ (rest.take (min need 1)).all (byteIn lo hi)
          ∧ ((rest.drop 1).take (need - 1)).all (byteIn 0x80 0xBF) then some need
      else none

/-- The loop of R145 from offset `i`; `skip` continuation bytes of a sequence already checked are passed over. -/
def utf8BadFrom (i skip : Nat) : Bytes → Option Nat
  | [] => none
  | b :: rest =>
    match skip with
    | k + 1 => utf8BadFrom (i + 1) k rest
    | 0 =>
      match utf8Need (b :: rest) with
      | none => some i
      | some need => utf8BadFrom (i + 1) need rest

/-- `utf8_bad(x)` (R145): the offset of the first ill-formed sequence, or none. -/
def utf8Bad (x : Bytes) : Option Nat :=
  utf8BadFrom 0 0 x

/-- Base64 encoding into a buffer (R146, R322): `E_OVERFLOW` on the padded length, whatever `pad` is. -/
def b64encChecked (cap : Nat) (pad : Bool) (x : Bytes) : Except Raise Bytes :=
  if b64Len x.length > cap then .error (.overflow (b64Len x.length)) else .ok (b64enc pad x)

/-- The UTF-8 check of a result (R147, R148, R326): `E_MALFORMED` at the first ill-formed sequence. -/
def utf8Checked (x : Bytes) : Except Raise Bytes :=
  match utf8Bad x with
  | some i => .error (.malformed i)
  | none => .ok x

/-- `B64ENC[.U] Bd, Ba` (R146). `U` "is accepted and changes nothing". -/
def execB64enc (rd ra : BitVec 2) (_u : Bool) (s : State) : Result :=
  retireBuf rd s (b64encChecked s.cfg.cap s.ctrl.b64Pad (buf s ra))

/-- `B64DEC[.U] Bd, Ba` (R147). -/
def execB64dec (rd ra : BitVec 2) (u : Bool) (s : State) : Result :=
  let r := b64dec (buf s ra)
  retireBuf rd s (if u then utf8Checked r else .ok r)

/-- `U8CHK Ba` (R148): writes nothing. -/
def execU8chk (ra : BitVec 2) (s : State) : Result :=
  retire s ((utf8Checked (buf s ra)).map fun _ => s)

end Sys2Proof.Machine
end

