-- ==== Sys2Proof/Machine/Cbc.lean ====
section
/-! DEFINITION. The CBC mode wrapper with PKCS#7 padding, and the meanings of `CBCENC`, `CBCDEC` (45_cbc.md). -/

namespace Sys2Proof.Machine

/-- `E(block, key)` of a cipher (R281). -/
def blockEnc : Cipher → Bytes → Bytes → Bytes
  | .des => desEnc
  | .tdes => tdesEnc
  | .aes => aesEnc

/-- `D(block, key)` of a cipher (R281). -/
def blockDec : Cipher → Bytes → Bytes → Bytes
  | .des => desDec
  | .tdes => tdesDec
  | .aes => aesDec

/-- The pad length `k = n - (len mod n)` (R283). -/
def padLen (n len : Nat) : Nat :=
  n - len % n

/-- `pkcs7_pad(p, n)` (R283). -/
def pkcs7Pad (n : Nat) (p : Bytes) : Bytes :=
  let k := padLen n p.length
  p ++ List.replicate k (BitVec.ofNat 8 k)

/-- The last byte of a nonempty string. -/
def lastByte (q : Bytes) : Byte :=
  q.getLastD 0#8

/-- `pkcs7_unpad(q)` (R284): the last byte is trusted; a `k` above the length gives the empty string. -/
def pkcs7Unpad (q : Bytes) : Bytes :=
  let k := (lastByte q).toNat
  if k ≤ q.length then q.take (q.length - k) else []

/-- `pkcs7_unpad_checked(q, n)` (R285). -/
def pkcs7UnpadChecked (n : Nat) (q : Bytes) : Except Raise Bytes :=
  let k := (lastByte q).toNat
  if k < 1 ∨ k > n ∨ q.drop (q.length - k) ≠ List.replicate k (lastByte q) then .error (.pad (lastByte q))
  else .ok (q.take (q.length - k))

/-- The chain of R286 over `m` blocks of `q`: each block XORed with the previous ciphertext block, then encrypted. -/
def cbcEncBlocks (enc : Bytes → Bytes) (n : Nat) : Nat → Bytes → Bytes → Bytes
  | 0, _, _ => []
  | m + 1, prev, q =>
    let c := enc (xorBytes (q.take n) prev)
    c ++ cbcEncBlocks enc n m c (q.drop n)

/-- The chain of R287 over `m` blocks of `ct`: each block decrypted, then XORed with the previous ciphertext block. -/
def cbcDecBlocks (dec : Bytes → Bytes) (n : Nat) : Nat → Bytes → Bytes → Bytes
  | 0, _, _ => []
  | m + 1, prev, ct =>
    let c := ct.take n
    xorBytes (dec c) prev ++ cbcDecBlocks dec n m c (ct.drop n)

/-- `cbc_enc(c, p, key, iv)` (R286). -/
def cbcEnc (c : Cipher) (k : KeySlot) (p : Bytes) : Bytes :=
  let n := blockLen c
  let q := pkcs7Pad n p
  cbcEncBlocks (blockEnc c k.key) n (q.length / n) k.iv q

/-- The plaintext blocks `q` of `cbc_dec`, before the padding is stripped (R287). -/
def cbcDecRaw (c : Cipher) (k : KeySlot) (ct : Bytes) : Bytes :=
  let n := blockLen c
  cbcDecBlocks (blockDec c k.key) n (ct.length / n) k.iv ct

/-- `cbc_dec(c, ct, key, iv)` (R287), permissive or hardened by `CTRL.PADCHK`. -/
def cbcDec (padChk : Bool) (c : Cipher) (k : KeySlot) (ct : Bytes) : Except Raise Bytes :=
  let q := cbcDecRaw c k ct
  if padChk then pkcs7UnpadChecked (blockLen c) q else .ok (pkcs7Unpad q)

/-- `chk(c, slot)` (R282): the key is tested first, then the IV. -/
def slotChecked (c : Cipher) (k : KeySlot) : Except Raise Unit :=
  if k.key.length ≠ keyLen c then .error (.keyLen false)
  else if k.iv.length ≠ blockLen c then .error (.keyLen true)
  else .ok ()

/-- CBC encryption with its checks (R289, R322). -/
def cbcEncChecked (cap : Nat) (c : Cipher) (k : KeySlot) (p : Bytes) : Except Raise Bytes := do
  slotChecked c k
  let m := p.length + padLen (blockLen c) p.length
  if m > cap then .error (.overflow m) else .ok (cbcEnc c k p)

/-- CBC decryption with its checks (R290, R323). -/
def cbcDecChecked (padChk : Bool) (c : Cipher) (k : KeySlot) (ct : Bytes) : Except Raise Bytes := do
  slotChecked c k
  if ct.length = 0 ∨ ct.length % blockLen c ≠ 0 then .error (.len ct.length) else cbcDec padChk c k ct

/-- The cipher of a command, `E_ILLEGAL` for the reserved selector (R93, R96 (e)). -/
def cipherChecked (c : BitVec 2) : Except Raise Cipher :=
  match cipherSelector c with
  | some x => .ok x
  | none => .error .illegal

/-- `CBCENC.c Bd, Ba, Kk` (R289). -/
def execCbcenc (rd ra : BitVec 2) (k : BitVec 3) (c : BitVec 2) (s : State) : Result :=
  retireBuf rd s (do cbcEncChecked s.cfg.cap (← cipherChecked c) (slot s k) (buf s ra))

/-- `CBCDEC.c Bd, Ba, Kk` (R290). -/
def execCbcdec (rd ra : BitVec 2) (k : BitVec 3) (c : BitVec 2) (s : State) : Result :=
  retireBuf rd s (do cbcDecChecked s.ctrl.padChk (← cipherChecked c) (slot s k) (buf s ra))

end Sys2Proof.Machine
end

