-- ==== Sys2Proof/Machine/Md5.lean ====
section
/-! DEFINITION. The MD5 unit, incremental, one-shot and keyed, and the meanings of `MD5INIT`, `MD5UPD`, `MD5FIN`, `MD5`,
`HMAC` (42_md5.md). -/

namespace Sys2Proof.Machine

/-- The nonlinear functions F, G, H, I of R162, by the operation's number. -/
def md5Mix (i : Nat) (x y z : Word) : Word :=
  if i < 16 then (x &&& y) ||| (~~~x &&& z)
  else if i < 32 then (x &&& z) ||| (y &&& ~~~z)
  else if i < 48 then x ^^^ y ^^^ z
  else y ^^^ (x ||| ~~~z)

/-- The additive constants `K[0..63]` (R163). -/
def md5K : List Word :=
  [0xD76AA478#32, 0xE8C7B756#32, 0x242070DB#32, 0xC1BDCEEE#32,
    0xF57C0FAF#32, 0x4787C62A#32, 0xA8304613#32, 0xFD469501#32,
    0x698098D8#32, 0x8B44F7AF#32, 0xFFFF5BB1#32, 0x895CD7BE#32,
    0x6B901122#32, 0xFD987193#32, 0xA679438E#32, 0x49B40821#32] ++
  [0xF61E2562#32, 0xC040B340#32, 0x265E5A51#32, 0xE9B6C7AA#32,
    0xD62F105D#32, 0x02441453#32, 0xD8A1E681#32, 0xE7D3FBC8#32,
    0x21E1CDE6#32, 0xC33707D6#32, 0xF4D50D87#32, 0x455A14ED#32,
    0xA9E3E905#32, 0xFCEFA3F8#32, 0x676F02D9#32, 0x8D2A4C8A#32] ++
  [0xFFFA3942#32, 0x8771F681#32, 0x6D9D6122#32, 0xFDE5380C#32,
    0xA4BEEA44#32, 0x4BDECFA9#32, 0xF6BB4B60#32, 0xBEBFBC70#32,
    0x289B7EC6#32, 0xEAA127FA#32, 0xD4EF3085#32, 0x04881D05#32,
    0xD9D4D039#32, 0xE6DB99E5#32, 0x1FA27CF8#32, 0xC4AC5665#32] ++
  [0xF4292244#32, 0x432AFF97#32, 0xAB9423A7#32, 0xFC93A039#32,
    0x655B59C3#32, 0x8F0CCC92#32, 0xFFEFF47D#32, 0x85845DD1#32,
    0x6FA87E4F#32, 0xFE2CE6E0#32, 0xA3014314#32, 0x4E0811A1#32,
    0xF7537E82#32, 0xBD3AF235#32, 0x2AD7D2BB#32, 0xEB86D391#32]

/-- The left-rotation amounts `S[i]` (R164): entry `i mod 4` of its round's quadruple. -/
def md5Shift (i : Nat) : Nat :=
  let quadruple :=
    if i < 16 then [7, 12, 17, 22]
    else if i < 32 then [5, 9, 14, 20]
    else if i < 48 then [4, 11, 16, 23]
    else [6, 10, 15, 21]
  quadruple.getD (i % 4) 0

/-- The message word `g(i)` operation `i` uses (R165). -/
def md5WordIndex (i : Nat) : Nat :=
  if i < 16 then i
  else if i < 32 then (5 * i + 1) % 16
  else if i < 48 then (3 * i + 5) % 16
  else (7 * i) % 16

/-- Operation `i` of the compression (R166), over the message words `m`. -/
def md5Operation (m : List Word) (v : Accum) (i : Nat) : Accum :=
  let t := v.a + md5Mix i v.b v.c v.d + md5K.getD i 0#32 + m.getD (md5WordIndex i) 0#32
  ⟨v.d, v.b + t.rotateLeft (md5Shift i), v.b, v.c⟩

/-- The sixteen little-endian message words of a block (R166). -/
def md5Words (blk : Bytes) : List Word :=
  (List.range 16).map fun j => le32 blk (4 * j)

/-- `md5_compress(Hin, blk)` (R166). -/
def md5Compress (h : Accum) (blk : Bytes) : Accum :=
  let v := (List.range 64).foldl (md5Operation (md5Words blk)) h
  ⟨h.a + v.a, h.b + v.b, h.c + v.c, h.d + v.d⟩

/-- The first `n` blocks of 64 bytes of `d`, compressed in order (the loops of R168 and R169). -/
def md5Blocks (h : Accum) (d : Bytes) : Nat → Accum
  | 0 => h
  | n + 1 => md5Blocks (md5Compress h (d.take 64)) (d.drop 64) n

/-- `absorb(ctx, x)` (R168), the Hasher's `update`. -/
def md5Absorb (ctx : Md5Ctx) (x : Bytes) : Md5Ctx :=
  let d := ctx.buf ++ x
  let n := d.length / 64
  { h := md5Blocks ctx.h d n
    buf := d.drop (64 * n)
    len := ctx.len + BitVec.ofNat 64 (8 * x.length) }

/-- `pad(r, L)` (R167): a `1` bit, the least number of zero bytes, and the 64-bit little-endian bit length. -/
def md5Pad (r : Bytes) (len : BitVec 64) : Bytes :=
  r ++ 0x80#8 :: List.replicate ((119 - r.length % 64) % 64) 0#8 ++ bytesLe64 len

/-- The digest of the accumulators, A first, each little-endian (R169). -/
def md5Digest (h : Accum) : Bytes :=
  bytesLe32 h.a ++ bytesLe32 h.b ++ bytesLe32 h.c ++ bytesLe32 h.d

/-- `finish(ctx)` (R169), the Hasher's `finalize`: 16 bytes. -/
def md5Finish (ctx : Md5Ctx) : Bytes :=
  let p := md5Pad ctx.buf ctx.len
  md5Digest (md5Blocks ctx.h p (p.length / 64))

/-- `md5(x) = finish(absorb(init, x))` (R169), in a context of its own (R175). -/
def md5Sum (x : Bytes) : Bytes :=
  md5Finish (md5Absorb Md5Ctx.init x)

/-- The ASCII hexadecimal digit of a nibble (R170). -/
def hexDigit (upper : Bool) (v : BitVec 4) : Byte :=
  if v.toNat ≤ 9 then BitVec.ofNat 8 (0x30 + v.toNat)
  else if upper then BitVec.ofNat 8 (0x41 + (v.toNat - 10))
  else BitVec.ofNat 8 (0x61 + (v.toNat - 10))

/-- Hexadecimal text, the high nibble first (R170). -/
def hexText (upper : Bool) (d : Bytes) : Bytes :=
  d.flatMap fun b => [hexDigit upper (b.extractLsb' 4 4), hexDigit upper (b.extractLsb' 0 4)]

/-- `render(d, fmt)` (R170): the case is `CTRL.HEXCASE`, the padding `CTRL.B64PAD`. -/
def render (c : Ctrl) (f : DigestFormat) (d : Bytes) : Bytes :=
  match f with
  | .raw => d
  | .hex => hexText c.hexCase d
  | .b64 => b64enc c.b64Pad d

/-- The digest format of a command, `E_ILLEGAL` for the reserved one (R93, R96 (e)). -/
def digestFormatChecked (fmt : BitVec 2) : Except Raise DigestFormat :=
  match digestFormat fmt with
  | some f => .ok f
  | none => .error .illegal

/-- The 64-byte key block of the keyed variant (R176): a long key is hashed, a short one zero-filled. -/
def hmacKeyBlock (k : Bytes) : Bytes :=
  let k' := if k.length > 64 then md5Sum k else k
  k' ++ List.replicate (64 - k'.length) 0#8

/-- `hmac_md5(k, m)` (R176). -/
def hmacMd5 (k m : Bytes) : Bytes :=
  let k0 := hmacKeyBlock k
  md5Sum (xorBytes k0 (List.replicate 64 0x5C#8) ++ md5Sum (xorBytes k0 (List.replicate 64 0x36#8) ++ m))

/-- `MD5INIT` (R171). -/
def execMd5init (s : State) : Result :=
  retire s (.ok { s with md := Md5Ctx.init })

/-- `MD5UPD Ba` (R172). -/
def execMd5upd (ra : BitVec 2) (s : State) : Result :=
  retire s (.ok { s with md := md5Absorb s.md (buf s ra) })

/-- `MD5FIN.fmt Bd` (R173): the digest, and the context initialised again. -/
def execMd5fin (rd fmt : BitVec 2) (s : State) : Result :=
  retire s ((digestFormatChecked fmt).map fun f =>
    setBuf rd (render s.ctrl f (md5Finish s.md)) { s with md := Md5Ctx.init })

/-- `MD5.fmt Bd, Ba` (R174), without the context `MD` (R175). -/
def execMd5 (rd ra fmt : BitVec 2) (s : State) : Result :=
  retireBuf rd s ((digestFormatChecked fmt).map fun f => render s.ctrl f (md5Sum (buf s ra)))

/-- `HMAC.fmt Bd, Ba, Bb` (R177): key `Ba`, message `Bb`, without the context `MD` (R175). -/
def execHmac (rd ra rb fmt : BitVec 2) (s : State) : Result :=
  retireBuf rd s ((digestFormatChecked fmt).map fun f => render s.ctrl f (hmacMd5 (buf s ra) (buf s rb)))

end Sys2Proof.Machine
end

