-- ==== Sys2Proof/Machine/Kdf.lean ====
section
/-! DEFINITION. The MD5-based key derivation engine, and the meanings of `KDFK`, `KDFIV` (46_kdf.md). -/

namespace Sys2Proof.Machine

/-- `kdf(secret, off, len, cap)` (R301): `len` characters of the hexadecimal digest text from `off`, or `E_RANGE`. The
digest is computed in a context of its own (42_md5.md R175). -/
def kdf (c : Ctrl) (secret : Bytes) (off len : BitVec 6) (cap : Nat) : Except Raise Bytes :=
  if off.toNat + len.toNat > 32 ∨ len.toNat > cap then .error (.range off len)
  else .ok (slice (render c .hex (md5Sum secret)) off.toNat len.toNat)

/-- `KDFK Kd, Ba, off, len` (R302). -/
def execKdfk (kd : BitVec 3) (ra : BitVec 2) (off len : BitVec 6) (s : State) : Result :=
  retire s ((kdf s.ctrl (buf s ra) off len keyCap).map fun v => setKey kd v s)

/-- `KDFIV Kd, Ba, off, len` (R303). -/
def execKdfiv (kd : BitVec 3) (ra : BitVec 2) (off len : BitVec 6) (s : State) : Result :=
  retire s ((kdf s.ctrl (buf s ra) off len ivCap).map fun v => setIv kd v s)

end Sys2Proof.Machine
end

