-- ==== Sys2Proof/Machine/Pipeline.lean ====
section
/-! DEFINITION. The pipeline sequencer: the stage functions, its core steps, and the meanings of `PENC`, `PDEC` and of the
stage tags (47_pipeline.md). -/

namespace Sys2Proof.Machine

/-- `stage_enc(t, x, k)` (R322). -/
def stageEnc (cap : Nat) (c : Ctrl) (t : Byte) (k : KeySlot) (x : Bytes) : Except Raise Bytes :=
  if t = 0x31#8 then cbcEncChecked cap .aes k x
  else if t = 0x32#8 then cbcEncChecked cap .des k x
  else if t = 0x33#8 then b64encChecked cap c.b64Pad x
  else .error (.stage t)

/-- `stage_dec(t, x, k)` (R323). -/
def stageDec (c : Ctrl) (t : Byte) (k : KeySlot) (x : Bytes) : Except Raise Bytes :=
  if t = 0x31#8 then cbcDecChecked c.padChk .aes k x
  else if t = 0x32#8 then cbcDecChecked c.padChk .des k x
  else if t = 0x33#8 then .ok (b64dec x)
  else .error (.stage t)

/-- The index in `PCFG` and `PSLOT` of a value of the stage pointer; a stage's index is below 16 (R31). -/
def stageIndex (i : BitVec 5) : BitVec 4 :=
  i.setWidth 4

/-- The key slot of stage `i` (R34). -/
def stageKey (s : State) (i : BitVec 5) : KeySlot :=
  slot s (stageSlot s (stageIndex i))

/-- The index of the stage the sequencer executes next (R31): `SPC` in encode direction, `SPC - 1` in decode direction. -/
def nextStage (s : State) : BitVec 5 :=
  match s.sdir with
  | .enc => s.spc
  | .dec => s.spc - 1#5

/-- Whether the sequencer has a stage step to take: `RUN` with `SPC < PLEN` (encode) or `SPC > 0` (decode), R328, R329. -/
def stageReady (s : State) : Bool :=
  s.sst == .run && match s.sdir with
    | .enc => s.spc.toNat < s.plen.toNat
    | .dec => 0 < s.spc.toNat

/-- The Stage step of `PENC` (R328) on tag `t`: `W` and `SPC + 1`, with `SST <- POST` in the step that makes `SPC = PLEN`;
on a fault neither assignment happens. -/
def stageStepEnc (t : Byte) (s : State) : State :=
  match stageEnc s.cfg.cap s.ctrl t (stageKey s s.spc) s.work with
  | .ok w => { s with work := w, spc := s.spc + 1#5, sst := if s.spc + 1#5 = s.plen then .post else .run }
  | .error e => takeFault e (some s.spc) s

/-- The Stage step of `PDEC` (R329) on tag `t`: `SPC - 1`, then `W`, with `SST <- POST` when the new `SPC` is 0; on a
fault `SPC` keeps the decremented value. -/
def stageStepDec (t : Byte) (s : State) : State :=
  let i := s.spc - 1#5
  match stageDec s.ctrl t (stageKey s i) s.work with
  | .ok w => { s with work := w, spc := i, sst := if i = 0#5 then .post else .run }
  | .error e => takeFault e (some i) { s with spc := i }

/-- The Stage step on tag `t` (R328, R329); in a state where the sequencer has none to take, no rule gives a step. -/
def stageStep (t : Byte) (s : State) : Result :=
  if stageReady s then
    match s.sdir with
    | .enc => .next (stageStepEnc t s)
    | .dec => .next (stageStepDec t s)
  else .fault .noCoreStep

/-- The Start step (R328, R329) with the first value of `SPC` and the direction; an empty program is at its end at once. -/
def startStep (ra : BitVec 2) (spc : BitVec 5) (dir : Dir) (s : State) : State :=
  { s with work := buf s ra, spc := spc, sdir := dir, sst := if s.plen = 0#5 then .post else .run }

/-- The commit of the Post step (R330): `BUF[rd] <- W; SST <- IDLE`; `W` is live no longer. The flags follow in `retire`. -/
def postCommit (rd : BitVec 2) (w : Bytes) (s : State) : State :=
  setBuf rd w { s with sst := .idle, work := [] }

/-- The `U` check, then the `R` re-encoding, of `PDEC`'s Post step (R326, R330). -/
def pdecPost (cap : Nat) (c : Ctrl) (u r : Bool) (w : Bytes) : Except Raise Bytes := do
  let w' ← if u then utf8Checked w else .ok w
  if r then b64encChecked cap c.b64Pad w' else .ok w'

/-- `PENC Bd, Ba` (R325, R328, R330): the Start step from `IDLE`, the Post step from `POST`; the steps between them are
those of the stage tags. -/
def execPenc (rd ra : BitVec 2) (s : State) : Result :=
  match s.sst with
  | .idle => .next (startStep ra 0#5 .enc s)
  | .post => retire s (.ok (postCommit rd s.work s))
  | .run => .fault .noCoreStep

/-- `PDEC[.U][.R] Bd, Ba` (R326, R329, R330): the Start step from `IDLE`, the Post step from `POST`. -/
def execPdec (rd ra : BitVec 2) (u r : Bool) (s : State) : Result :=
  match s.sst with
  | .idle => .next (startStep ra s.plen .dec s)
  | .post => retire s ((pdecPost s.cfg.cap s.ctrl u r s.work).map fun w => postCommit rd w s)
  | .run => .fault .noCoreStep

/-- Stage tag `1`: AES-128 CBC (R322, R323). -/
def execTag1 (s : State) : Result :=
  stageStep 0x31#8 s

/-- Stage tag `2`: DES CBC (R322, R323). -/
def execTag2 (s : State) : Result :=
  stageStep 0x32#8 s

/-- Stage tag `3`: Base64 (R322, R323). -/
def execTag3 (s : State) : Result :=
  stageStep 0x33#8 s

end Sys2Proof.Machine
end

