-- ==== Sys2Proof/Machine/SystemBuffer.lean ====
section
/-! DEFINITION. The meanings of the system, buffer and key-slot commands (40_system_buffer.md R121 to R127). -/

namespace Sys2Proof.Machine

/-- `NOP` (R121): nothing but the standard flags. -/
def execNop (s : State) : Result :=
  retire s (.ok s)

/-- `ERRCLR` (R122), the return from a fault. -/
def execErrclr (s : State) : Result :=
  retire s (.ok (clearFault s))

/-- `BCLR Bd` (R123): `BUF[rd] <- ""`. -/
def execBclr (rd : BitVec 2) (s : State) : Result :=
  retireBuf rd s (.ok [])

/-- `BCPY Bd, Ba` (R124): `BUF[rd] <- BUF[ra]`. -/
def execBcpy (rd ra : BitVec 2) (s : State) : Result :=
  retireBuf rd s (.ok (buf s ra))

/-- `BCAT Bd, Ba` (R125): `BUF[rd] <- BUF[rd] ‖ BUF[ra]`, or `E_OVERFLOW(n)`. -/
def execBcat (rd ra : BitVec 2) (s : State) : Result :=
  let n := (buf s rd).length + (buf s ra).length
  retireBuf rd s (if n > s.cfg.cap then .error (.overflow n) else .ok (buf s rd ++ buf s ra))

/-- `KSETK Kd, Ba` (R126): `KS[rd].key <- BUF[ra]`, or `E_KEYLEN(0)` above 24 bytes. -/
def execKsetk (kd : BitVec 3) (ra : BitVec 2) (s : State) : Result :=
  retire s (if (buf s ra).length > keyCap then .error (.keyLen false) else .ok (setKey kd (buf s ra) s))

/-- `KSETIV Kd, Ba` (R127): `KS[rd].iv <- BUF[ra]`, or `E_KEYLEN(1)` above 16 bytes. -/
def execKsetiv (kd : BitVec 3) (ra : BitVec 2) (s : State) : Result :=
  retire s (if (buf s ra).length > ivCap then .error (.keyLen true) else .ok (setIv kd (buf s ra) s))

end Sys2Proof.Machine
end

