-- ==== Sys2Proof/Machine/Dispatch.lean ====
section
/-! DEFINITION. One arm per instruction, each one call of its meaning. -/

namespace Sys2Proof.Machine

/-- One core step of the block that executes the given instruction. -/
def exec (i : Instr) (s : State) : Host.Outcome State Fault Refusal :=
  match i with
  | .nop => Sys2Proof.Machine.execNop s
  | .errclr => Sys2Proof.Machine.execErrclr s
  | .bclr rd => Sys2Proof.Machine.execBclr rd s
  | .bcpy rd ra => Sys2Proof.Machine.execBcpy rd ra s
  | .bcat rd ra => Sys2Proof.Machine.execBcat rd ra s
  | .ksetk kd ra => Sys2Proof.Machine.execKsetk kd ra s
  | .ksetiv kd ra => Sys2Proof.Machine.execKsetiv kd ra s
  | .b64enc rd ra u => Sys2Proof.Machine.execB64enc rd ra u s
  | .b64dec rd ra u => Sys2Proof.Machine.execB64dec rd ra u s
  | .u8chk ra => Sys2Proof.Machine.execU8chk ra s
  | .md5init => Sys2Proof.Machine.execMd5init s
  | .md5upd ra => Sys2Proof.Machine.execMd5upd ra s
  | .md5fin rd fmt => Sys2Proof.Machine.execMd5fin rd fmt s
  | .md5 rd ra fmt => Sys2Proof.Machine.execMd5 rd ra fmt s
  | .hmac rd ra rb fmt => Sys2Proof.Machine.execHmac rd ra rb fmt s
  | .desenc rd ra k => Sys2Proof.Machine.execDesenc rd ra k s
  | .desdec rd ra k => Sys2Proof.Machine.execDesdec rd ra k s
  | .tdesenc rd ra k => Sys2Proof.Machine.execTdesenc rd ra k s
  | .tdesdec rd ra k => Sys2Proof.Machine.execTdesdec rd ra k s
  | .aesenc rd ra k => Sys2Proof.Machine.execAesenc rd ra k s
  | .aesdec rd ra k => Sys2Proof.Machine.execAesdec rd ra k s
  | .cbcenc rd ra k c => Sys2Proof.Machine.execCbcenc rd ra k c s
  | .cbcdec rd ra k c => Sys2Proof.Machine.execCbcdec rd ra k c s
  | .kdfk kd ra off len => Sys2Proof.Machine.execKdfk kd ra off len s
  | .kdfiv kd ra off len => Sys2Proof.Machine.execKdfiv kd ra off len s
  | .penc rd ra => Sys2Proof.Machine.execPenc rd ra s
  | .pdec rd ra u r => Sys2Proof.Machine.execPdec rd ra u r s
  | .tag1 => Sys2Proof.Machine.execTag1 s
  | .tag2 => Sys2Proof.Machine.execTag2 s
  | .tag3 => Sys2Proof.Machine.execTag3 s

end Sys2Proof.Machine
end

