-- ==== Sys2Proof/Machine/HostBus.lean ====
section
/-! DEFINITION. The host's side of the block: the address map, register reads and writes, the interlock, and reset
(20_memory.md, 70_reset_and_hazards.md R400, R402). -/

namespace Sys2Proof.Machine

/-- A mapped place of the host register space (R61). -/
inductive HostReg where
  | id
  | param0
  | param1
  | ctrl
  | status
  | cmd
  | errinfo
  | ecmd
  | seq
  | blen (b : BitVec 2)
  | md5h (j : BitVec 2)
  | md5lenl
  | md5lenh
  | md5cnt
  | plen
  | pcfg (r : BitVec 2)
  | pslot (r : BitVec 1)
  /-- `BWINb[o]`: bytes `o .. o+3` of buffer `b`. -/
  | window (b : BitVec 2) (o : Nat)
  deriving DecidableEq, Repr

/-- The buffer windows of R61: buffer `b` at `0x10000 (b + 1)`, of which the first `CAP` bytes are mapped. -/
def windowReg (cap a : Nat) : Option HostReg :=
  let page := a / 0x10000
  let o := a % 0x10000
  if 1 ≤ page ∧ page ≤ 4 ∧ o < cap then some (.window (BitVec.ofNat 2 (page - 1)) o) else none

/-- The address map (R61) at an offset that is a multiple of 4; every other offset is unmapped (R62). -/
def hostReg (cap : Nat) (addr : BitVec 20) : Option HostReg :=
  match addr.toNat with
  | 0x00 => some .id
  | 0x04 => some .param0
  | 0x08 => some .param1
  | 0x10 => some .ctrl
  | 0x14 => some .status
  | 0x18 => some .cmd
  | 0x1C => some .errinfo
  | 0x20 => some .ecmd
  | 0x24 => some .seq
  | 0x30 => some (.blen 0#2)
  | 0x34 => some (.blen 1#2)
  | 0x38 => some (.blen 2#2)
  | 0x3C => some (.blen 3#2)
  | 0x40 => some (.md5h 0#2)
  | 0x44 => some (.md5h 1#2)
  | 0x48 => some (.md5h 2#2)
  | 0x4C => some (.md5h 3#2)
  | 0x50 => some .md5lenl
  | 0x54 => some .md5lenh
  | 0x58 => some .md5cnt
  | 0x60 => some .plen
  | 0x64 => some (.pcfg 0#2)
  | 0x68 => some (.pcfg 1#2)
  | 0x6C => some (.pcfg 2#2)
  | 0x70 => some (.pcfg 3#2)
  | 0x74 => some (.pslot 0#1)
  | 0x78 => some (.pslot 1#1)
  | a => windowReg cap a

/-- Byte lane `j` of a word, lane 0 the most significant (R63, R64). -/
def lane (v : Word) (j : BitVec 2) : Byte :=
  v.extractLsb' (24 - 8 * j.toNat) 8

/-- The word of four lanes, lane 0 the most significant (R63). -/
def wordOfLanes (b0 b1 b2 b3 : Byte) : Word :=
  b0 ++ b1 ++ b2 ++ b3

/-- A window read (R64): a lane at or beyond `BLEN` reads 0. -/
def windowRead (x : Bytes) (o : Nat) : Word :=
  wordOfLanes (x.getD o 0#8) (x.getD (o + 1) 0#8) (x.getD (o + 2) 0#8) (x.getD (o + 3) 0#8)

/-- A window write (R65): a lane at or beyond `BLEN` is ignored, the length never changes. -/
def windowWrite (v : Word) (o : Nat) (x : Bytes) : Bytes :=
  (((x.set o (lane v 0#2)).set (o + 1) (lane v 1#2)).set (o + 2) (lane v 2#2)).set (o + 3) (lane v 3#2)

/-- A `BLENb` write of `n` (R66): dropped above `CAP`, else truncation or extension with zero bytes. -/
def resizeBuf (cap n : Nat) (x : Bytes) : Bytes :=
  if n > cap then x else x.take n ++ List.replicate (n - x.length) 0#8

/-- The accumulator `MD.H[j]` (R25). -/
def accumWord (h : Accum) (j : BitVec 2) : Word :=
  if j = 0#2 then h.a else if j = 1#2 then h.b else if j = 2#2 then h.c else h.d

/-- `PCFGr` (R33): tags `4r .. 4r+3`, the first the most significant. -/
def pcfgWord (s : State) (r : BitVec 2) : Word :=
  wordOfLanes (stageTag s (r ++ 0#2)) (stageTag s (r ++ 1#2)) (stageTag s (r ++ 2#2)) (stageTag s (r ++ 3#2))

/-- The write of `v` to `PCFGr` (R33). -/
def setPcfgWord (r : BitVec 2) (v : Word) (s : State) : State :=
  setStageTag (r ++ 3#2) (lane v 3#2) (setStageTag (r ++ 2#2) (lane v 2#2)
    (setStageTag (r ++ 1#2) (lane v 1#2) (setStageTag (r ++ 0#2) (lane v 0#2) s)))

/-- A nibble of `PSLOTr` (R34): bit 3 reads 0. -/
def slotNibble (s : State) (r : BitVec 1) (j : BitVec 3) : BitVec 4 :=
  0#1 ++ stageSlot s (r ++ j)

/-- `PSLOTr` (R34): the slot of stage `8r + j` in nibble `j`. -/
def pslotWord (s : State) (r : BitVec 1) : Word :=
  slotNibble s r 7#3 ++ slotNibble s r 6#3 ++ slotNibble s r 5#3 ++ slotNibble s r 4#3
    ++ slotNibble s r 3#3 ++ slotNibble s r 2#3 ++ slotNibble s r 1#3 ++ slotNibble s r 0#3

/-- The write of one nibble of `v` to `PSLOTr` (R34): its bit 3 is ignored. -/
def setSlotNibble (r : BitVec 1) (v : Word) (s : State) (j : BitVec 3) : State :=
  setStageSlot (r ++ j) (v.extractLsb' (4 * j.toNat) 3) s

/-- The write of `v` to `PSLOTr` (R34). -/
def setPslotWord (r : BitVec 1) (v : Word) (s : State) : State :=
  [0#3, 1#3, 2#3, 3#3, 4#3, 5#3, 6#3, 7#3].foldl (setSlotNibble r v) s

/-- The value read at a mapped place (R61). A write-only register reads 0; reads have no side effect (R69). -/
def readReg (s : State) : HostReg → Word
  | .id => identification
  | .param0 => BitVec.ofNat 32 s.cfg.cap
  | .param1 => parameterWord
  | .ctrl => ctrlWord s.ctrl
  | .status => statusWord s.status
  | .cmd => 0#32
  | .errinfo => s.errinfo
  | .ecmd => s.ecmd
  | .seq => seqWord s
  | .blen b => BitVec.ofNat 32 (buf s b).length
  | .md5h j => accumWord s.md.h j
  | .md5lenl => s.md.len.extractLsb' 0 32
  | .md5lenh => s.md.len.extractLsb' 32 32
  | .md5cnt => BitVec.ofNat 32 s.md.buf.length
  | .plen => 0#27 ++ s.plen
  | .pcfg r => pcfgWord s r
  | .pslot r => pslotWord s r
  | .window b o => windowRead (buf s b) o

/-- An accepted `CMD` write of `v`: `CW <- v; BUSY <- 1; DONE <- 0` (10_state.md R28). -/
def issue (v : Word) (s : State) : State :=
  { s with cw := v, status := statusIssued s.status }

/-- A dropped write: no change but `OVR` (R70, R71). -/
def dropWrite (s : State) : State :=
  { s with status := statusOverrun s.status }

/-- A `CMD` write while `BUSY = 0` (R28, R71): while `FAULT = 1` only the opcode byte of `ERRCLR` is accepted. -/
def writeCmd (v : Word) (s : State) : State :=
  if s.status.fault = true ∧ v.extractLsb' 24 8 ≠ 0x01#8 then dropWrite s else issue v s

/-- A `PLEN` write (10_state.md R32): a value of 17..31 in bits 4:0 is dropped. -/
def writePlen (v : Word) (s : State) : State :=
  let n : BitVec 5 := v.extractLsb' 0 5
  if n.toNat > 16 then s else { s with plen := n }

/-- Reset (R400, R402): every piece of the block's state at its value of 10_state.md R41. The parameter and the model's
own fields, which are not the block's, stay. -/
def resetBlock (s : State) : State :=
  { State.resetWith s.cfg with events := s.events, reply := s.reply }

/-- An accepted write of `v` at a mapped place (R61, R65, R66, R69); a write to a read-only register is ignored. -/
def writeReg (v : Word) (s : State) : HostReg → State
  | .ctrl => { s with ctrl := ctrlOfWord v }
  | .status => { s with status := statusWriteOneToClear v s.status }
  | .cmd => writeCmd v s
  | .blen b => setBuf b (resizeBuf s.cfg.cap (v.extractLsb' 0 17).toNat (buf s b)) s
  | .plen => writePlen v s
  | .pcfg r => setPcfgWord r v s
  | .pslot r => setPslotWord r v s
  | .window b o => setBuf b (windowWrite v o (buf s b)) s
  | .id | .param0 | .param1 | .errinfo | .ecmd | .seq | .md5h _ | .md5lenl | .md5lenh | .md5cnt => s

/-- A write at a mapped place, with the interlock (R70) and the soft reset, which is accepted in every state (R402). -/
def writeMapped (v : Word) (r : HostReg) (s : State) : State :=
  if r = .ctrl ∧ v.getLsbD 0 = true then resetBlock s
  else if s.status.busy = true then dropWrite s
  else writeReg v s r

/-- The mapped place a transaction of the given width reaches (R68): 32 bits wide, at a multiple of 4. -/
def target (width : Nat) (addr : BitVec 20) (s : State) : Option HostReg :=
  if width = 32 ∧ addr.toNat % 4 = 0 then hostReg s.cfg.cap addr else none

/-- The reply to `HostRead(addr)` (R60, R62, R68). The spec states no data for a read that is not 32 bits wide. -/
def readReply (width : Nat) (addr : BitVec 20) (s : State) : BusReply :=
  match target width addr s with
  | some r => ⟨.okay, some (readReg s r)⟩
  | none => ⟨.error, if width = 32 then some 0#32 else none⟩

/-- `HostRead(addr)` as an event (R69): nothing changes but the model's record of the reply. -/
def hostRead (width : Nat) (addr : BitVec 20) (s : State) : State :=
  { s with reply := some (readReply width addr s) }

/-- `HostWrite(addr, v)` as an event (R60, R62, R68, R70, R71). -/
def hostWrite (width : Nat) (addr : BitVec 20) (v : Word) (s : State) : State :=
  match target width addr s with
  | some r => { writeMapped v r s with reply := some ⟨.okay, none⟩ }
  | none => { s with reply := some ⟨.error, none⟩ }

end Sys2Proof.Machine
end

