-- ==== Sys2Proof/Machine/Fetch.lean ====
section
/-! DEFINITION. What the core does in its next core step (20_memory.md R72; 30_encoding.md R90, R97; 47_pipeline.md R327
to R330): the instruction it decodes from `CW` or from `PCFG`, and the placing of an instruction where it is decoded. -/

namespace Sys2Proof.Machine

/-- What the core finds to do. -/
inductive Fetched where
  /-- `BUSY = 0`: the core has no step (R72). -/
  | idle
  /-- An instruction to execute. -/
  | instr (i : Instr)
  /-- `CW` holds an illegal command word (R96). -/
  | illegal
  /-- The stage the sequencer has reached has a tag that is none of the three (R96, R321). -/
  | badTag (t : Byte)
  deriving DecidableEq, Repr

/-- The command in `CW` (R97). -/
def fetchCommand (s : State) : Fetched :=
  match decode s.cw with
  | .ok i => .instr i
  | .error _ => .illegal

/-- The stage tag the sequencer has reached (R90, R321). -/
def fetchTag (s : State) : Fetched :=
  let t := stageTag s (stageIndex (nextStage s))
  match decodeTag t with
  | .ok i => .instr i
  | .error _ => .badTag t

/-- What the core does next: nothing while `BUSY = 0`; in `RUN` the stage it has reached; else the command in `CW`. -/
def fetch (s : State) : Fetched :=
  if s.status.busy = true then
    match s.sst with
    | .run => fetchTag s
    | .idle => fetchCommand s
    | .post => fetchCommand s
  else .idle

/-- A command word as the host's accepted `CMD` write leaves it (10_state.md R28), the core's turn being next. -/
def placeCommand (cw : Word) (s : State) : State :=
  { issue cw s with sst := .idle, events := [] }

/-- A stage tag as the sequencer meets it: a running `PENC B0, B0` of a one-stage program with that tag, before its
Stage step (R328). -/
def placeTag (t : Byte) (s : State) : State :=
  setStageTag 0#4 t
    { issue 0x70000000#32 s with
      sst := .run, spc := 0#5, sdir := .enc, plen := 1#5, events := [] }

end Sys2Proof.Machine
end

