-- ==== Sys2Proof/Machine/Step.lean ====
section
/-! DEFINITION. One event of the block: a host transaction, a reset, or a core step (20_memory.md R72). -/

namespace Sys2Proof.Machine

/-- One core step (R72): nothing while `BUSY = 0`; else the instruction at hand, or the fault of an illegal word (R96,
R120) or of an unknown stage tag (47_pipeline.md R321). -/
def coreStep (s : State) : Host.Outcome State Fault Refusal :=
  match fetch s with
  | .idle => .next s
  | .instr i => exec i s
  | .illegal => .next (takeFault .illegal none s)
  | .badTag t => stageStep t s

/-- The next event of the total order (R72): the first one pending, or the core's turn when none is. -/
def step (s : State) : Host.Outcome State Fault Refusal :=
  match s.events with
  | [] => coreStep s
  | .core :: rest => coreStep { s with events := rest }
  | .read width addr :: rest => .next (hostRead width addr { s with events := rest })
  | .write width addr v :: rest => .next (hostWrite width addr v { s with events := rest })
  | .hardReset :: rest => .next (resetBlock { s with events := rest })

/-- `s` with the instruction of `nbits` bits and value `w` where the next step takes it: a command word in `CW` as just
issued, a stage tag (8 bits) as the tag of the stage a running `PENC` has reached. -/
def State.withFetchWord (s : State) (nbits w : Nat) : State :=
  if nbits ≤ 8 then placeTag (BitVec.ofNat 8 w) s else placeCommand (BitVec.ofNat 32 w) s

end Sys2Proof.Machine
end

