-- ==== Sys2Proof/Safety.lean ====
section
/-! DEFINITION. The terms claims are stated in: what a completed and what a faulted command leaves, what each kind of
command may change, the invariant of the machine, and the commands `PENC`, `PDEC` as functions (47_pipeline.md R325,
R326). Nothing here is used by the machine. -/

namespace Sys2Proof.Machine

/-- The standard flags of a command that ends without fault (40_system_buffer.md R120): `BUSY` 0, `DONE` 1, the others
unchanged. -/
def Completed (s t : State) : Prop :=
  t.status = ⟨false, true, s.status.fault, s.status.ovr, s.status.err⟩

/-- The registers no command of a unit changes but through `STATUS`, the buffers, the key slots and `MD`. -/
structure SameControl (s t : State) : Prop where
  cfg : t.cfg = s.cfg
  ctrl : t.ctrl = s.ctrl
  cw : t.cw = s.cw
  errinfo : t.errinfo = s.errinfo
  ecmd : t.ecmd = s.ecmd
  sst : t.sst = s.sst
  spc : t.spc = s.spc
  sdir : t.sdir = s.sdir
  plen : t.plen = s.plen
  pcfg : t.pcfg = s.pcfg
  pslot : t.pslot = s.pslot
  work : t.work = s.work
  events : t.events = s.events
  reply : t.reply = s.reply

/-- Every byte of every buffer other than `rd`, and every length, is as before. -/
def OtherBufs (rd : BitVec 2) (s t : State) : Prop :=
  ∀ b, b ≠ rd → buf t b = buf s b

/-- Nothing changes but `STATUS` (and what the statement says of it). -/
structure OnlyStatus (s t : State) : Prop where
  control : SameControl s t
  bufs : ∀ b, buf t b = buf s b
  slots : ∀ k, slot t k = slot s k
  md : t.md = s.md

/-- Nothing changes but `STATUS` and buffer `rd`. -/
structure OnlyBuf (rd : BitVec 2) (s t : State) : Prop where
  control : SameControl s t
  bufs : OtherBufs rd s t
  slots : ∀ k, slot t k = slot s k
  md : t.md = s.md

/-- Nothing changes but `STATUS` and the key of slot `kd`. -/
structure OnlyKey (kd : BitVec 3) (s t : State) : Prop where
  control : SameControl s t
  bufs : ∀ b, buf t b = buf s b
  iv : (slot t kd).iv = (slot s kd).iv
  slots : ∀ k, k ≠ kd → slot t k = slot s k
  md : t.md = s.md

/-- Nothing changes but `STATUS` and the IV of slot `kd`. -/
structure OnlyIv (kd : BitVec 3) (s t : State) : Prop where
  control : SameControl s t
  bufs : ∀ b, buf t b = buf s b
  key : (slot t kd).key = (slot s kd).key
  slots : ∀ k, k ≠ kd → slot t k = slot s k
  md : t.md = s.md

/-- Nothing changes but `STATUS` and the context `MD`. -/
structure OnlyMd (s t : State) : Prop where
  control : SameControl s t
  bufs : ∀ b, buf t b = buf s b
  slots : ∀ k, slot t k = slot s k

/-- The programmed state a faulting command leaves as it was (60_exceptions.md R365), with the parameter and the model's
own fields. -/
structure SameData (s t : State) : Prop where
  cfg : t.cfg = s.cfg
  bufs : ∀ b, buf t b = buf s b
  slots : ∀ k, slot t k = slot s k
  md : t.md = s.md
  ctrl : t.ctrl = s.ctrl
  cw : t.cw = s.cw
  plen : t.plen = s.plen
  pcfg : t.pcfg = s.pcfg
  pslot : t.pslot = s.pslot
  events : t.events = s.events
  reply : t.reply = s.reply

/-- Fault entry (R364) with the given code and `ERRINFO` word: the record is written, `BUSY` is 0, `SST` is `IDLE`, and
the data is unchanged. `SPC` and `SDIR` are said by the statement. -/
structure FaultEntry (code : BitVec 8) (info : Word) (s t : State) : Prop where
  status : t.status = ⟨false, s.status.done, true, s.status.ovr, code⟩
  errinfo : t.errinfo = info
  ecmd : t.ecmd = s.cw
  sst : t.sst = .idle
  data : SameData s t

/-- A fault of a command outside the pipeline (R364): fault entry with `INFO` = `info`, `STG` and `INSTG` 0, and `SPC`,
`SDIR` unchanged. -/
def CommandFault (code : BitVec 8) (info : BitVec 24) (s t : State) : Prop :=
  FaultEntry code (0#8 ++ info) s t ∧ t.spc = s.spc ∧ t.sdir = s.sdir

/-- A fault raised by pipeline stage `i` (47_pipeline.md R331): `INSTG = 1`, `STG = i`, and `SPC` is `i`. -/
def StageFault (code : BitVec 8) (info : BitVec 24) (i : BitVec 5) (s t : State) : Prop :=
  FaultEntry code (1#1 ++ 0#2 ++ i ++ info) s t ∧ t.spc = i ∧ t.sdir = s.sdir

/-- The sequencer's part of the invariant (10_state.md R31, 47_pipeline.md R328, R329). -/
def SeqInv (s : State) : Prop :=
  match s.sst with
  | .idle => s.spc.toNat ≤ 16
  | sst =>
    s.status.busy = true ∧ s.status.fault = false ∧ s.work.length ≤ s.cfg.cap ∧ s.spc.toNat ≤ s.plen.toNat ∧
    match s.sdir with
    | .enc => (∃ rd ra, decode s.cw = .ok (.penc rd ra)) ∧ (sst = .run ↔ s.spc ≠ s.plen)
    | .dec => (∃ rd ra u r, decode s.cw = .ok (.pdec rd ra u r)) ∧ (sst = .run ↔ s.spc ≠ 0#5)

/-- The invariant of the machine: the sizes of R6, R22, R23, the context of R25, the program length of R32, the flags of
R27 and the fault record of R29, R30, and the sequencer. -/
structure Inv (s : State) : Prop where
  cfg : s.cfg.Legal
  bufs : ∀ b, (buf s b).length ≤ s.cfg.cap
  keys : ∀ k, (slot s k).key.length ≤ 24
  ivs : ∀ k, (slot s k).iv.length ≤ 16
  mdBuf : s.md.buf.length = s.md.len.toNat / 8 % 64
  mdLen : s.md.len.toNat % 8 = 0
  plen : s.plen.toNat ≤ 16
  busyDone : s.status.busy = true → s.status.done = false
  doneFault : s.status.done = true → s.status.fault = false
  busyFault : s.status.busy = true → s.status.fault = true → s.cw.extractLsb' 24 8 = 0x01#8
  record : s.status.fault = false → s.status.err = 0#8 ∧ s.errinfo = 0#32 ∧ s.ecmd = 0#32
  code : s.status.fault = true → 1 ≤ s.status.err.toNat ∧ s.status.err.toNat ≤ 8
  seq : SeqInv s

/-- The state is about to take the first core step of the command in `CW`: it has been issued (R28), the sequencer is
idle, and the core's turn is next. -/
structure Issued (s : State) : Prop where
  events : s.events = []
  busy : s.status.busy = true
  sst : s.sst = .idle

/-- `n` stages of the program from stage `i` on, left to right (R325): the working string, or the first fault and the
index of its stage. -/
def encStages (s : State) : Nat → Nat → Bytes → Except (Raise × BitVec 5) Bytes
  | 0, _, w => .ok w
  | n + 1, i, w =>
    match stageEnc s.cfg.cap s.ctrl (stageTag s (BitVec.ofNat 4 i)) (slot s (stageSlot s (BitVec.ofNat 4 i))) w with
    | .ok w' => encStages s n (i + 1) w'
    | .error e => .error (e, BitVec.ofNat 5 i)

/-- The stages `n - 1` down to 0 with their inverse operations (R326). -/
def decStages (s : State) : Nat → Bytes → Except (Raise × BitVec 5) Bytes
  | 0, w => .ok w
  | n + 1, w =>
    match stageDec s.ctrl (stageTag s (BitVec.ofNat 4 n)) (slot s (stageSlot s (BitVec.ofNat 4 n))) w with
    | .ok w' => decStages s n w'
    | .error e => .error (e, BitVec.ofNat 5 n)

/-- `PENC Bd, Ba` as a function of the state at issue (R325, R331): the state when it has ended. -/
def pencResult (rd ra : BitVec 2) (s : State) : State :=
  match encStages s s.plen.toNat 0 (buf s ra) with
  | .ok w => complete (setBuf rd w { s with sst := .idle, spc := s.plen, sdir := .enc, work := [] })
  | .error (e, i) => takeFault e (some i) { s with spc := i, sdir := .enc }

/-- `PDEC[.U][.R] Bd, Ba` as a function of the state at issue (R326, R331): the state when it has ended. -/
def pdecResult (rd ra : BitVec 2) (u r : Bool) (s : State) : State :=
  match decStages s s.plen.toNat (buf s ra) with
  | .error (e, i) => takeFault e (some i) { s with spc := i, sdir := .dec }
  | .ok w =>
    match pdecPost s.cfg.cap s.ctrl u r w with
    | .ok w' => complete (setBuf rd w' { s with sst := .idle, spc := 0#5, sdir := .dec, work := [] })
    | .error e => takeFault e none { s with spc := 0#5, sdir := .dec }

/-! ### Encodings -/

/-- The opcode byte of a command word (30_encoding.md R91). -/
def opcodeOf (w : Word) : BitVec 8 :=
  w.extractLsb' 24 8

/-- The encoding of one command: the words with opcode `op` that decode are exactly those with the fields
`rd, ra, rb, imm` of some legal `a`, each to its instruction; every other word with that opcode is illegal (30_encoding.md
R91, R96). -/
def Encoded {α : Type} (op : BitVec 8) (fs : α → BitVec 4 × BitVec 4 × BitVec 4 × BitVec 12) (legal : α → Prop)
    (ins : α → Instr) : Prop :=
  let word a := wordOf ⟨op, (fs a).1, (fs a).2.1, (fs a).2.2.1, (fs a).2.2.2⟩
  (∀ a, legal a → decode (word a) = .ok (ins a)) ∧
    ∀ w, opcodeOf w = op → (∀ a, legal a → w ≠ word a) → ∃ e, decode w = .error e

/-- A 32-bit row of spec/opcode_table.json: `mask`, `match`, and whether it has the constraint "bits 1:0 are not 3". -/
structure OpcodeRow where
  mask : Word
  pattern : Word
  constrained : Bool
  deriving DecidableEq, Repr

/-- A word matches the row and meets its constraint (30_encoding.md R98). -/
def OpcodeRow.Admits (r : OpcodeRow) (w : Word) : Prop :=
  w &&& r.mask = r.pattern ∧ (r.constrained = true → w.extractLsb' 0 2 ≠ 3#2)

/-- The row of an instruction; a stage tag has none (30_encoding.md R94, R98). -/
def commandRow : Instr → Option OpcodeRow
  | .nop => some ⟨0xFFFFFFFF#32, 0x00000000#32, false⟩
  | .errclr => some ⟨0xFFFFFFFF#32, 0x01000000#32, false⟩
  | .bclr _ => some ⟨0xFFCFFFFF#32, 0x08000000#32, false⟩
  | .bcpy _ _ => some ⟨0xFFCCFFFF#32, 0x09000000#32, false⟩
  | .bcat _ _ => some ⟨0xFFCCFFFF#32, 0x0A000000#32, false⟩
  | .ksetk _ _ => some ⟨0xFF8CFFFF#32, 0x0C000000#32, false⟩
  | .ksetiv _ _ => some ⟨0xFF8CFFFF#32, 0x0D000000#32, false⟩
  | .b64enc _ _ _ => some ⟨0xFFCCFFFE#32, 0x10000000#32, false⟩
  | .b64dec _ _ _ => some ⟨0xFFCCFFFE#32, 0x11000000#32, false⟩
  | .u8chk _ => some ⟨0xFFFCFFFF#32, 0x12000000#32, false⟩
  | .md5init => some ⟨0xFFFFFFFF#32, 0x20000000#32, false⟩
  | .md5upd _ => some ⟨0xFFFCFFFF#32, 0x21000000#32, false⟩
  | .md5fin _ _ => some ⟨0xFFCFFFFC#32, 0x22000000#32, true⟩
  | .md5 _ _ _ => some ⟨0xFFCCFFFC#32, 0x23000000#32, true⟩
  | .hmac _ _ _ _ => some ⟨0xFFCCCFFC#32, 0x24000000#32, true⟩
  | .desenc _ _ _ => some ⟨0xFFCC8FFF#32, 0x30000000#32, false⟩
  | .desdec _ _ _ => some ⟨0xFFCC8FFF#32, 0x31000000#32, false⟩
  | .tdesenc _ _ _ => some ⟨0xFFCC8FFF#32, 0x32000000#32, false⟩
  | .tdesdec _ _ _ => some ⟨0xFFCC8FFF#32, 0x33000000#32, false⟩
  | .aesenc _ _ _ => some ⟨0xFFCC8FFF#32, 0x40000000#32, false⟩
  | .aesdec _ _ _ => some ⟨0xFFCC8FFF#32, 0x41000000#32, false⟩
  | .cbcenc _ _ _ _ => some ⟨0xFFCC8FFC#32, 0x50000000#32, true⟩
  | .cbcdec _ _ _ _ => some ⟨0xFFCC8FFC#32, 0x51000000#32, true⟩
  | .kdfk _ _ _ _ => some ⟨0xFF8CF000#32, 0x60000000#32, false⟩
  | .kdfiv _ _ _ _ => some ⟨0xFF8CF000#32, 0x61000000#32, false⟩
  | .penc _ _ => some ⟨0xFFCCFFFF#32, 0x70000000#32, false⟩
  | .pdec _ _ _ _ => some ⟨0xFFCCFFFC#32, 0x71000000#32, false⟩
  | .tag1 => none
  | .tag2 => none
  | .tag3 => none

/-- The term of a command word of 30_encoding.md R99: an operand shifted to its place, to be added. -/
def placed {n : Nat} (v : BitVec n) (bit : Nat) : Word :=
  v.setWidth 32 <<< bit

/-! ### Events -/

/-- The next event of `s` is the core's turn, and it finds the state `s'` (20_memory.md R72). -/
def CoreTurn (s s' : State) : Prop :=
  (s.events = [] ∧ s' = s) ∨ ∃ rest, s.events = .core :: rest ∧ s' = { s with events := rest }

/-- The event `e` comes next, before those pending in `s`. -/
def onEvent (e : HostEvent) (s : State) : Result :=
  step { s with events := e :: s.events }

/-- A host read of `addr` answers `OKAY` and `v`, and changes nothing (20_memory.md R69). -/
def Reads (s : State) (addr : BitVec 20) (v : Word) : Prop :=
  onEvent (.read 32 addr) s = .next { s with reply := some ⟨.okay, some v⟩ }

/-- A host write of `v` to `addr` answers `OKAY` and leaves the state `t` (with the reply recorded). -/
def Writes (s : State) (addr : BitVec 20) (v : Word) (t : State) : Prop :=
  onEvent (.write 32 addr v) s = .next { t with reply := some ⟨.okay, none⟩ }

/-- The offsets of the registers in the address map (20_memory.md R61). -/
def registerOffsets : List Nat :=
  [0x00, 0x04, 0x08, 0x10, 0x14, 0x18, 0x1C, 0x20, 0x24, 0x30, 0x34, 0x38, 0x3C, 0x40, 0x44, 0x48, 0x4C, 0x50, 0x54,
    0x58, 0x60, 0x64, 0x68, 0x6C, 0x70, 0x74, 0x78]

/-- The offsets of the address map that are multiples of 4 (20_memory.md R61): a register, or one of the first `cap`
bytes of a buffer's window. -/
def Mapped (cap a : Nat) : Prop :=
  a ∈ registerOffsets ∨ ∃ b o, b < 4 ∧ o < cap ∧ a = 0x10000 * (b + 1) + o

/-- The host offset of the buffer window's word at `o` (20_memory.md R61). -/
def windowAddr (b : BitVec 2) (o : Nat) : BitVec 20 :=
  BitVec.ofNat 20 (0x10000 * (b.toNat + 1) + o)

/-- `k` steps of the machine. -/
def runSteps (k : Nat) (s : State) : Result :=
  Host.Core.run Sys2Proof.core k s

/-! ### Commands -/

/-- What a single-block command does (43_des.md R213 to R216, 44_aes.md R252, R253): the key length is checked first,
then the input length. -/
def BlockCommand (ins : BitVec 2 → BitVec 2 → BitVec 3 → Instr) (kl n : Nat) (f : Bytes → Bytes → Bytes) : Prop :=
  ∀ rd ra k s, ∃ t, exec (ins rd ra k) s = .next t ∧
    if (slot s k).key.length ≠ kl then CommandFault 0x03#8 0#24 s t
    else if (buf s ra).length ≠ n then CommandFault 0x04#8 (BitVec.ofNat 24 (buf s ra).length) s t
    else buf t rd = f (slot s k).key (buf s ra) ∧ Completed s t ∧ OnlyBuf rd s t

/-- The digest `d` in the format `fmt` (42_md5.md R170): 0 raw, 1 hexadecimal, 2 Base64. -/
def digestText (c : Ctrl) (fmt : BitVec 2) (d : Bytes) : Bytes :=
  if fmt = 0#2 then d else if fmt = 1#2 then hexText c.hexCase d else b64enc c.b64Pad d

/-- A Stage step that does not fault (47_pipeline.md R328, R329): `W`, `SPC` and `SST` are as given, nothing else
changes. -/
def StageDone (w : Bytes) (spc : BitVec 5) (sst : Sst) (s t : State) : Prop :=
  t.work = w ∧ t.spc = spc ∧ t.sst = sst ∧ { t with work := s.work, spc := s.spc, sst := s.sst } = s

/-- The key slot of stage `i` (10_state.md R34), `i` below 16. -/
def slotOfStage (s : State) (i : Nat) : KeySlot :=
  slot s (stageSlot s (BitVec.ofNat 4 i))

/-- The cipher stage of cipher `x` in encode direction (47_pipeline.md R322, R328), at stage `SPC`. -/
def CipherStageEnc (ins : Instr) (x : Cipher) : Prop :=
  ∀ s, s.sst = .run → s.sdir = .enc → s.spc.toNat < s.plen.toNat → s.plen.toNat ≤ 16 →
    let ks := slotOfStage s s.spc.toNat
    let m := s.work.length + blockLen x - s.work.length % blockLen x
    ∃ t, exec ins s = .next t ∧
      if ks.key.length ≠ keyLen x then StageFault 0x03#8 0#24 s.spc s t
      else if ks.iv.length ≠ blockLen x then StageFault 0x03#8 1#24 s.spc s t
      else if m > s.cfg.cap then StageFault 0x05#8 (BitVec.ofNat 24 m) s.spc s t
      else StageDone (cbcEnc x ks s.work) (s.spc + 1#5) (if s.spc + 1#5 = s.plen then .post else .run) s t

/-- The cipher stage of cipher `x` in decode direction (47_pipeline.md R323, R329), at stage `SPC - 1`. -/
def CipherStageDec (ins : Instr) (x : Cipher) : Prop :=
  ∀ s, s.sst = .run → s.sdir = .dec → 0 < s.spc.toNat → s.spc.toNat ≤ 16 →
    let i := s.spc - 1#5
    let ks := slotOfStage s i.toNat
    let q := cbcDecRaw x ks s.work
    let p := (q.getLastD 0#8).toNat
    ∃ t, exec ins s = .next t ∧
      if ks.key.length ≠ keyLen x then StageFault 0x03#8 0#24 i s t
      else if ks.iv.length ≠ blockLen x then StageFault 0x03#8 1#24 i s t
      else if s.work.length = 0 ∨ s.work.length % blockLen x ≠ 0 then
        StageFault 0x04#8 (BitVec.ofNat 24 s.work.length) i s t
      else if s.ctrl.padChk = true ∧ (p < 1 ∨ p > blockLen x ∨ q.drop (q.length - p) ≠ List.replicate p (BitVec.ofNat 8 p))
      then StageFault 0x08#8 (BitVec.ofNat 24 p) i s t
      else StageDone (q.take (q.length - p)) i (if i = 0#5 then .post else .run) s t

/-- A buffer is fed to the incremental digest chunk by chunk: each chunk loaded into `B0`, then `MD5UPD B0`. -/
def md5UpdAll (s : State) : List Bytes → Result
  | [] => .next s
  | x :: rest =>
    match exec (.md5upd 0#2) (setBuf 0#2 x s) with
    | .next t => md5UpdAll t rest
    | .fault r => .fault r
    | .refused r => .refused r

/-- Equal but for a working string that is not live (10_state.md R38). -/
def SameVisible (a b : State) : Prop :=
  { a with work := [] } = { b with work := [] } ∧ (a.sst ≠ .idle → a.work = b.work)

/-! ### Functions of the rules in another form -/

/-- A Unicode scalar value: up to U+10FFFF, no surrogate (41_base64.md R145). -/
def IsScalar (c : Nat) : Prop :=
  c < 0xD800 ∨ (0xE000 ≤ c ∧ c ≤ 0x10FFFF)

/-- The UTF-8 encoding of a scalar value, shortest form (41_base64.md R145). -/
def utf8Encode (c : Nat) : Bytes :=
  if c < 0x80 then [BitVec.ofNat 8 c]
  else if c < 0x800 then [BitVec.ofNat 8 (0xC0 + c / 0x40), BitVec.ofNat 8 (0x80 + c % 0x40)]
  else if c < 0x10000 then
    [BitVec.ofNat 8 (0xE0 + c / 0x1000), BitVec.ofNat 8 (0x80 + c / 0x40 % 0x40), BitVec.ofNat 8 (0x80 + c % 0x40)]
  else
    [BitVec.ofNat 8 (0xF0 + c / 0x40000), BitVec.ofNat 8 (0x80 + c / 0x1000 % 0x40),
      BitVec.ofNat 8 (0x80 + c / 0x40 % 0x40), BitVec.ofNat 8 (0x80 + c % 0x40)]

/-- The product in the field of 44_aes.md R241, by shift and add over the bits of `b`. -/
def gfMul (a b : Byte) : Byte :=
  (List.range 8).foldr (fun i acc => xtime acc ^^^ (if b.getLsbD i then a else 0#8)) 0#8

/-- `a` to the power `n` in that field. -/
def gfPow (a : Byte) : Nat → Byte
  | 0 => 1#8
  | n + 1 => gfMul a (gfPow a n)

/-- `Tk[x]` of 44_aes.md R249: the column `T0[x]` rotated down by `k` rows. -/
def aesTTable (k : Nat) (x : Byte) : Bytes :=
  let t0 : Bytes := [xtime (aesSBox x), aesSBox x, aesSBox x, mul3 (aesSBox x)]
  t0.drop (4 - k) ++ t0.take (4 - k)

/-- Column `c` of a full round by T-tables, before the round key (44_aes.md R249). -/
def aesTColumn (s : Bytes) (c : Nat) : Bytes :=
  let at' r := s.getD (r + 4 * ((c + r) % 4)) 0#8
  xorBytes (xorBytes (aesTTable 0 (at' 0)) (aesTTable 1 (at' 1))) (xorBytes (aesTTable 2 (at' 2)) (aesTTable 3 (at' 3)))

end Sys2Proof.Machine
end

