-- ==== Sys2Proof/Certificates/Slice0/Obligations.lean ====
section
/-! DEFINITION. The statements for the provers. Each docstring names the rules of spec/ it rests on; where a statement rests
on a choice of the model, it names the log entry (notes/assumptions). -/

section

open Sys2Proof Sys2Proof.Machine

/-! ### Encoding and dispatch -/

/-- Decoding the encoding of a well-formed instruction, command or stage tag, gives the instruction (30_encoding.md R91 to
R95). -/
def Obligations.DecodeEncode : Prop :=
  ∀ i : Instr, i.wf = true → decodeCode (encode i) = .ok i

/-- What the decoder accepts is the encoding of what it answers, which is well formed: no bit is ignored (R96). -/
def Obligations.EncodeDecode : Prop :=
  ∀ (c : Code) (i : Instr), decodeCode c = .ok i → i.wf = true ∧ encode i = c

/-- A word decodes to a row of the opcode table exactly when it matches the row and meets its constraint (R98), and a word
of no row is illegal. -/
def Obligations.OpcodeTable : Prop :=
  (∀ (w : Word) (i : Instr), decode w = .ok i → ∃ r, commandRow i = some r ∧ r.Admits w) ∧
  (∀ (j : Instr) (r : OpcodeRow) (w : Word), commandRow j = some r → r.Admits w →
    ∃ i, decode w = .ok i ∧ commandRow i = some r) ∧
  ∀ w : Word, (∀ (j : Instr) (r : OpcodeRow), commandRow j = some r → ¬ r.Admits w) → ∃ e, decode w = .error e

/-- The command words as the sums of R99's table. -/
def Obligations.WordForms : Prop :=
  ∀ (d a b fmt c : BitVec 2) (kd k : BitVec 3) (u r : Bool) (off len : BitVec 6),
    encode .nop = .command 0x00000000#32 ∧
    encode .errclr = .command 0x01000000#32 ∧
    encode (.bclr d) = .command (0x08000000#32 + placed d 20) ∧
    encode (.bcpy d a) = .command (0x09000000#32 + placed d 20 + placed a 16) ∧
    encode (.bcat d a) = .command (0x0A000000#32 + placed d 20 + placed a 16) ∧
    encode (.ksetk kd a) = .command (0x0C000000#32 + placed kd 20 + placed a 16) ∧
    encode (.ksetiv kd a) = .command (0x0D000000#32 + placed kd 20 + placed a 16) ∧
    encode (.b64enc d a u) = .command (0x10000000#32 + placed d 20 + placed a 16 + placed (BitVec.ofBool u) 0) ∧
    encode (.b64dec d a u) = .command (0x11000000#32 + placed d 20 + placed a 16 + placed (BitVec.ofBool u) 0) ∧
    encode (.u8chk a) = .command (0x12000000#32 + placed a 16) ∧
    encode .md5init = .command 0x20000000#32 ∧
    encode (.md5upd a) = .command (0x21000000#32 + placed a 16) ∧
    encode (.md5fin d fmt) = .command (0x22000000#32 + placed d 20 + placed fmt 0) ∧
    encode (.md5 d a fmt) = .command (0x23000000#32 + placed d 20 + placed a 16 + placed fmt 0) ∧
    encode (.hmac d a b fmt) = .command (0x24000000#32 + placed d 20 + placed a 16 + placed b 12 + placed fmt 0) ∧
    encode (.desenc d a k) = .command (0x30000000#32 + placed d 20 + placed a 16 + placed k 12) ∧
    encode (.desdec d a k) = .command (0x31000000#32 + placed d 20 + placed a 16 + placed k 12) ∧
    encode (.tdesenc d a k) = .command (0x32000000#32 + placed d 20 + placed a 16 + placed k 12) ∧
    encode (.tdesdec d a k) = .command (0x33000000#32 + placed d 20 + placed a 16 + placed k 12) ∧
    encode (.aesenc d a k) = .command (0x40000000#32 + placed d 20 + placed a 16 + placed k 12) ∧
    encode (.aesdec d a k) = .command (0x41000000#32 + placed d 20 + placed a 16 + placed k 12) ∧
    encode (.cbcenc d a k c) = .command (0x50000000#32 + placed d 20 + placed a 16 + placed k 12 + placed c 0) ∧
    encode (.cbcdec d a k c) = .command (0x51000000#32 + placed d 20 + placed a 16 + placed k 12 + placed c 0) ∧
    encode (.kdfk kd a off len) = .command (0x60000000#32 + placed kd 20 + placed a 16 + placed off 6 + placed len 0) ∧
    encode (.kdfiv kd a off len) = .command (0x61000000#32 + placed kd 20 + placed a 16 + placed off 6 + placed len 0) ∧
    encode (.penc d a) = .command (0x70000000#32 + placed d 20 + placed a 16) ∧
    encode (.pdec d a u r) = .command (0x71000000#32 + placed d 20 + placed a 16 + placed (BitVec.ofBool u) 0
      + placed (BitVec.ofBool r) 1)

/-- Words written out from the rules' worked examples and from the vector V96 (96_vectors_host_and_data.md), at least one of
each family of the opcode table, decode to the instructions they stand for. -/
def Obligations.DecodeSamples : Prop :=
  decode 0x00000000#32 = .ok .nop ∧ decode 0x01000000#32 = .ok .errclr ∧
  decode 0x08200000#32 = .ok (.bclr 2) ∧ decode 0x09100000#32 = .ok (.bcpy 1 0) ∧
  decode 0x0A010000#32 = .ok (.bcat 0 1) ∧ decode 0x0C200000#32 = .ok (.ksetk 2 0) ∧
  decode 0x0D010000#32 = .ok (.ksetiv 0 1) ∧ decode 0x10100000#32 = .ok (.b64enc 1 0 false) ∧
  decode 0x11100000#32 = .ok (.b64dec 1 0 false) ∧ decode 0x12000000#32 = .ok (.u8chk 0) ∧
  decode 0x22100001#32 = .ok (.md5fin 1 1) ∧ decode 0x24201001#32 = .ok (.hmac 2 0 1 1) ∧
  decode 0x30107000#32 = .ok (.desenc 1 0 7) ∧ decode 0x40100000#32 = .ok (.aesenc 1 0 0) ∧
  decode 0x50103002#32 = .ok (.cbcenc 1 0 3 2) ∧
  decode 0x60200010#32 = .ok (.kdfk 2 0 0 16) ∧ decode 0x61210410#32 = .ok (.kdfiv 2 1 16 16) ∧
  decode 0x70100000#32 = .ok (.penc 1 0) ∧ decode 0x71210000#32 = .ok (.pdec 2 1 false false) ∧
  decodeTag 0x31#8 = .ok .tag1 ∧ decodeTag 0x32#8 = .ok .tag2 ∧ decodeTag 0x33#8 = .ok .tag3

/-- A step at the core's turn: it executes the command in `CW`, or in `RUN` the stage tag the sequencer has reached; with
`BUSY = 0` it does nothing (20_memory.md R72, 30_encoding.md R90). -/
def Obligations.StepRunsInstruction : Prop :=
  ∀ (s s' : State), CoreTurn s s' →
    (s'.status.busy = true → s'.sst ≠ .run → ∀ i, decode s'.cw = .ok i → step s = exec i s') ∧
    (s'.status.busy = true → s'.sst = .run → ∀ i, decodeTag (stageTag s' (stageIndex (nextStage s'))) = .ok i →
      step s = exec i s') ∧
    (s'.status.busy = false → step s = .next s')

/-- Illegal encodings (30_encoding.md R96, 60_exceptions.md R361, R364): an illegal command word raises `E_ILLEGAL` at its
first core step without any other effect, overwriting a fault record already present (R368); a tag that is none of the
three raises `E_STAGE` with the tag byte at the step in which the sequencer reaches its stage, in either direction
(47_pipeline.md R321, R331). -/
def Obligations.IllegalEncodings : Prop :=
  (∀ (s s' : State), CoreTurn s s' → s'.status.busy = true → s'.sst = .idle → (∃ e, decode s'.cw = .error e) →
    ∃ t, step s = .next t ∧ CommandFault 0x01#8 0#24 s' t) ∧
  ∀ (s s' : State), CoreTurn s s' → s'.status.busy = true → stageReady s' = true → s'.plen.toNat ≤ 16 →
    s'.spc.toNat ≤ 16 →
    let i := nextStage s'
    let tag := stageTag s' (BitVec.ofNat 4 i.toNat)
    tag ≠ 0x31#8 → tag ≠ 0x32#8 → tag ≠ 0x33#8 →
      ∃ t, step s = .next t ∧ StageFault 0x07#8 (BitVec.ofNat 24 tag.toNat) i s' t

/-! ### Reset and the invariant -/

/-- The state after reset (10_state.md R41), for every value of `CAP`; `irq` is 0. That `State.reset` is the block with
`CAP` = 4096, the default of 00_scope.md R6, is the model's choice (log entry 2). -/
def Obligations.ResetValues : Prop :=
  State.reset = State.resetWith ⟨4096⟩ ∧
  ∀ cfg : Config, let s := State.resetWith cfg
    (∀ b, (buf s b).length = 0) ∧ (∀ k, (slot s k).key.length = 0 ∧ (slot s k).iv.length = 0) ∧
    accumWord s.md.h 0 = 0x67452301#32 ∧ accumWord s.md.h 1 = 0xEFCDAB89#32 ∧ accumWord s.md.h 2 = 0x98BADCFE#32 ∧
    accumWord s.md.h 3 = 0x10325476#32 ∧ s.md.buf = [] ∧ s.md.len = 0#64 ∧
    ctrlWord s.ctrl = 0x00000820#32 ∧ statusWord s.status = 0#32 ∧ s.cw = 0#32 ∧ s.errinfo = 0#32 ∧ s.ecmd = 0#32 ∧
    seqWord s = 0#32 ∧ s.plen = 0#5 ∧ (∀ i, stageTag s i = 0#8) ∧ (∀ i, stageSlot s i = 0#3) ∧ irq s = false

/-- The reset input, and a write to `CTRL` with `SRST` = 1 in every state, put every piece of state at its reset value,
`CTRL` itself included (70_reset_and_hazards.md R400, R402). The model's choices in it: `W`, which R41 leaves unspecified, is
empty (log entry 3), the level input `rst` is one event (log entry 8), and the parameter, the pending events and the reply
record, which are not the block's state, stay (log entry 13). -/
def Obligations.Resets : Prop :=
  ∀ (s : State) (v : Word),
    onEvent .hardReset s = .next { State.resetWith s.cfg with events := s.events, reply := s.reply } ∧
    (v.getLsbD 0 = true →
      Writes s 0x00010#20 v { State.resetWith s.cfg with events := s.events })

/-- The machine's invariant holds after reset, for every legal `CAP`. -/
def Obligations.InvReset : Prop :=
  Inv State.reset ∧ ∀ cfg : Config, cfg.Legal → Inv (State.resetWith cfg)

/-- Every step, of the core or of the host, keeps the invariant: buffers within `CAP` (10_state.md R22), keys and IVs within
their slots (R23), the MD5 context's counts (R25), `PLEN` and `SPC` (R31, R32), the flags and the fault record (R27, R29,
R30), and the sequencer's state. -/
def Obligations.InvStep : Prop :=
  ∀ s t : State, Inv s → step s = .next t → Inv t

/-- From a state that meets the invariant the machine never stops: each core step is a total function of the state
(70_reset_and_hazards.md R409). -/
def Obligations.NeverStops : Prop :=
  ∀ s : State, Inv s → ∃ t, step s = .next t

/-! ### The host's side -/

/-- A host read at each register's offset returns the register's content and changes nothing (20_memory.md R61, R69;
10_state.md R25 to R36). -/
def Obligations.ReadMap : Prop :=
  ∀ s : State,
    Reads s 0x00000#20 0x414B4D35#32 ∧
    Reads s 0x00004#20 (BitVec.ofNat 32 s.cfg.cap) ∧
    Reads s 0x00008#20 0x00100804#32 ∧
    Reads s 0x00010#20 (BitVec.ofNat 32 (2 * s.ctrl.ieDone.toNat + 4 * s.ctrl.ieErr.toNat + 16 * s.ctrl.hexCase.toNat
      + 32 * s.ctrl.b64Pad.toNat + 64 * s.ctrl.padChk.toNat + 8 * 256)) ∧
    Reads s 0x00014#20 (BitVec.ofNat 32 (s.status.busy.toNat + 2 * s.status.done.toNat + 4 * s.status.fault.toNat
      + 8 * s.status.ovr.toNat + 256 * s.status.err.toNat)) ∧
    Reads s 0x00018#20 0#32 ∧
    Reads s 0x0001C#20 s.errinfo ∧
    Reads s 0x00020#20 s.ecmd ∧
    Reads s 0x00024#20 (BitVec.ofNat 32 ((match s.sst with | .idle => 0 | .run => 1 | .post => 2) + 16 * s.spc.toNat
      + 4096 * (match s.sdir with | .enc => 0 | .dec => 1))) ∧
    (∀ b : BitVec 2, Reads s (0x00030#20 + 4 * b.setWidth 20) (BitVec.ofNat 32 (buf s b).length)) ∧
    Reads s 0x00040#20 s.md.h.a ∧ Reads s 0x00044#20 s.md.h.b ∧ Reads s 0x00048#20 s.md.h.c ∧
    Reads s 0x0004C#20 s.md.h.d ∧
    Reads s 0x00050#20 (BitVec.ofNat 32 s.md.len.toNat) ∧
    Reads s 0x00054#20 (BitVec.ofNat 32 (s.md.len.toNat / 2 ^ 32)) ∧
    Reads s 0x00058#20 (BitVec.ofNat 32 s.md.buf.length) ∧
    Reads s 0x00060#20 (BitVec.ofNat 32 s.plen.toNat) ∧
    (∀ r : Nat, r < 4 → Reads s (BitVec.ofNat 20 (0x64 + 4 * r))
      (BitVec.ofNat 32 ((stageTag s (BitVec.ofNat 4 (4 * r))).toNat * 2 ^ 24
        + (stageTag s (BitVec.ofNat 4 (4 * r + 1))).toNat * 2 ^ 16
        + (stageTag s (BitVec.ofNat 4 (4 * r + 2))).toNat * 2 ^ 8
        + (stageTag s (BitVec.ofNat 4 (4 * r + 3))).toNat))) ∧
    (∀ r : Nat, r < 2 → Reads s (BitVec.ofNat 20 (0x74 + 4 * r))
      (BitVec.ofNat 32 (((List.range 8).map fun j => (stageSlot s (BitVec.ofNat 4 (8 * r + j))).toNat * 16 ^ j).sum)))

/-- A transaction that is not 32 bits wide, not at a multiple of 4 or not at a mapped offset gets `ERROR` and changes
nothing, and an unmapped offset reads 0; every other transaction gets `OKAY` (20_memory.md R62, R68; 60_exceptions.md
R372). -/
def Obligations.BusErrors : Prop :=
  ∀ (s : State) (width : Nat) (addr : BitVec 20) (v : Word), s.cfg.Legal →
    (width = 32 ∧ addr.toNat % 4 = 0 ∧ Mapped s.cfg.cap addr.toNat →
      (∃ d : Word, onEvent (.read width addr) s = .next { s with reply := some ⟨.okay, some d⟩ }) ∧
      ∃ t : State, onEvent (.write width addr v) s = .next { t with reply := some ⟨.okay, none⟩ }) ∧
    (¬ (width = 32 ∧ addr.toNat % 4 = 0 ∧ Mapped s.cfg.cap addr.toNat) →
      (∃ d : Option Word, onEvent (.read width addr) s = .next { s with reply := some ⟨.error, d⟩ } ∧
        (width = 32 ∧ addr.toNat % 4 = 0 → d = some 0#32)) ∧
      onEvent (.write width addr v) s = .next { s with reply := some ⟨.error, none⟩ })

/-- The `CMD` register (10_state.md R28): an accepted write latches the word, sets `BUSY` and clears `DONE`; any other write
is dropped and sets `OVR`; it reads 0. -/
def Obligations.CmdWrite : Prop :=
  ∀ (s : State) (v : Word),
    (s.status.busy = false ∧ (s.status.fault = false ∨ opcodeOf v = 0x01#8) →
      Writes s 0x00018#20 v { s with cw := v, status := ⟨true, false, s.status.fault, s.status.ovr, s.status.err⟩ }) ∧
    (¬ (s.status.busy = false ∧ (s.status.fault = false ∨ opcodeOf v = 0x01#8)) →
      Writes s 0x00018#20 v { s with status := ⟨s.status.busy, s.status.done, s.status.fault, true, s.status.err⟩ }) ∧
    Reads s 0x00018#20 0#32

/-- While `BUSY = 1` every write to a mapped address, other than a soft reset, is dropped with response `OKAY` and sets
`OVR` (20_memory.md R70). -/
def Obligations.WritesWhileBusy : Prop :=
  ∀ (s : State) (addr : BitVec 20) (v : Word), s.cfg.Legal → s.status.busy = true → addr.toNat % 4 = 0 →
    Mapped s.cfg.cap addr.toNat → ¬ (addr = 0x00010#20 ∧ v.getLsbD 0 = true) →
      Writes s addr v { s with status := ⟨true, s.status.done, s.status.fault, true, s.status.err⟩ }

/-- Register writes with `BUSY` 0 (10_state.md R26, R27, R35, R40; 20_memory.md R61): a `CTRL` write without `SRST` stores the
five configuration bits and nothing else, reserved bits and `CHRSZ` reading as before; a `STATUS` write clears `DONE` and
`OVR` where a 1 is written; a write to a read-only register is ignored; `irq` follows the flags and their enables. -/
def Obligations.RegisterWrites : Prop :=
  (∀ s : State, irq s = true ↔
    (s.ctrl.ieDone = true ∧ s.status.done = true) ∨ (s.ctrl.ieErr = true ∧ s.status.fault = true)) ∧
  ∀ (s : State) (v : Word), s.status.busy = false →
    (v.getLsbD 0 = false →
      Writes s 0x00010#20 v
        { s with ctrl := ⟨v.getLsbD 1, v.getLsbD 2, v.getLsbD 4, v.getLsbD 5, v.getLsbD 6⟩ } ∧
      Reads { s with ctrl := ⟨v.getLsbD 1, v.getLsbD 2, v.getLsbD 4, v.getLsbD 5, v.getLsbD 6⟩ } 0x00010#20
        ((v &&& 0x00000076#32) ||| 0x00000800#32)) ∧
    Writes s 0x00014#20 v
      { s with status := ⟨false, if v.getLsbD 1 then false else s.status.done, s.status.fault,
        if v.getLsbD 3 then false else s.status.ovr, s.status.err⟩ } ∧
    ∀ addr : BitVec 20,
      addr.toNat ∈ [0x00, 0x04, 0x08, 0x1C, 0x20, 0x24, 0x40, 0x44, 0x48, 0x4C, 0x50, 0x54, 0x58] → Writes s addr v s

/-- Writes to the pipeline program (10_state.md R32, R33, R34): a `PLEN` value of 17 to 31 in bits 4:0 is dropped without
`OVR`, any other is stored; a `PCFGr` write stores its four bytes as the tags `4r .. 4r+3`, the first the most significant;
a `PSLOTr` write stores the low three bits of its eight nibbles as the slots of stages `8r .. 8r+7`; every other entry, and
everything else, is as before. -/
def Obligations.ProgramWrites : Prop :=
  ∀ (s : State) (v : Word), s.status.busy = false →
    Writes s 0x00060#20 v (if v.toNat % 32 ≤ 16 then { s with plen := BitVec.ofNat 5 (v.toNat % 32) } else s) ∧
    (∀ r : Nat, r < 4 → ∃ t, Writes s (BitVec.ofNat 20 (0x64 + 4 * r)) v t ∧ { t with pcfg := s.pcfg } = s ∧
      ∀ i : Nat, i < 16 → (stageTag t (BitVec.ofNat 4 i)).toNat =
        if i / 4 = r then v.toNat / 256 ^ (3 - i % 4) % 256 else (stageTag s (BitVec.ofNat 4 i)).toNat) ∧
    (∀ r : Nat, r < 2 → ∃ t, Writes s (BitVec.ofNat 20 (0x74 + 4 * r)) v t ∧ { t with pslot := s.pslot } = s ∧
      ∀ i : Nat, i < 16 → (stageSlot t (BitVec.ofNat 4 i)).toNat =
        if i / 8 = r then v.toNat / 16 ^ (i % 8) % 8 else (stageSlot s (BitVec.ofNat 4 i)).toNat)

/-- A window read (20_memory.md R63, R64): byte lane `j`, lane 0 the most significant, is byte `o + j` of the buffer, or 0
at or beyond its length. -/
def Obligations.WindowReads : Prop :=
  ∀ (s : State) (b : BitVec 2) (o : Nat), s.cfg.Legal → o < s.cfg.cap → o % 4 = 0 →
    ∃ d, Reads s (windowAddr b o) d ∧
      ∀ j : Nat, j < 4 → d.toNat / 256 ^ (3 - j) % 256 =
        if o + j < (buf s b).length then ((buf s b).getD (o + j) 0#8).toNat else 0

/-- A window write (20_memory.md R65): the lanes below the buffer's length are stored, the others ignored; the length, every
other byte and everything else is as before. A `BLENb` write of `n = v[16:0]` (R66): dropped above `CAP`, else truncation or
extension with zero bytes. -/
def Obligations.BufferWrites : Prop :=
  (∀ (s : State) (b : BitVec 2) (o : Nat) (v : Word), s.cfg.Legal → s.status.busy = false → o < s.cfg.cap → o % 4 = 0 →
    ∃ t, Writes s (windowAddr b o) v t ∧ { t with bufs := s.bufs } = s ∧ OtherBufs b s t ∧
      (buf t b).length = (buf s b).length ∧
      ∀ i : Nat, i < (buf s b).length → ((buf t b).getD i 0#8).toNat =
        if o ≤ i ∧ i < o + 4 then v.toNat / 256 ^ (3 - (i - o)) % 256 else ((buf s b).getD i 0#8).toNat) ∧
  ∀ (s : State) (b : BitVec 2) (v : Word), s.status.busy = false →
    let n := v.toNat % 2 ^ 17
    ∃ t, Writes s (0x00030#20 + 4 * b.setWidth 20) v t ∧ { t with bufs := s.bufs } = s ∧ OtherBufs b s t ∧
      buf t b =
        if n > s.cfg.cap then buf s b
        else if n ≤ (buf s b).length then (buf s b).take n
        else buf s b ++ List.replicate (n - (buf s b).length) 0#8

/-! ### System, buffer and key-slot commands -/

/-- `NOP` (40_system_buffer.md R121): only the standard flags; issued while `FAULT = 1` it is dropped; from reset it leaves
`STATUS = 0x00000002`. -/
def Obligations.NopOnlyCompletes : Prop :=
  Encoded 0x00#8 (fun _ : Unit => (0#4, 0#4, 0#4, 0#12)) (fun _ => True) (fun _ => .nop) ∧
  (∀ s : State, ∃ t, exec .nop s = .next t ∧ Completed s t ∧ OnlyStatus s t) ∧
  (∀ s : State, s.status.fault = true →
    Writes s 0x00018#20 0#32 { s with status := ⟨s.status.busy, s.status.done, true, true, s.status.err⟩ }) ∧
  ∃ t, exec .nop (issue 0#32 State.reset) = .next t ∧ statusWord t.status = 0x00000002#32

/-- `ERRCLR`, the return from a fault (60_exceptions.md R367; 40_system_buffer.md R122): it clears `FAULT`, `ERR`, `ERRINFO`
and `ECMD`, sets `DONE`, and changes nothing else; with no fault recorded it is a `NOP`. -/
def Obligations.Errclr : Prop :=
  Encoded 0x01#8 (fun _ : Unit => (0#4, 0#4, 0#4, 0#12)) (fun _ => True) (fun _ => .errclr) ∧
  (∀ s : State, ∃ t, exec .errclr s = .next t ∧ t.status = ⟨false, true, false, s.status.ovr, 0#8⟩ ∧ t.errinfo = 0#32 ∧
    t.ecmd = 0#32 ∧ { t with status := s.status, errinfo := s.errinfo, ecmd := s.ecmd } = s) ∧
  ∀ s : State, Inv s → s.status.fault = false → exec .errclr s = exec .nop s

/-- `BCLR`, `BCPY` and `BCAT` (40_system_buffer.md R123, R124, R125). -/
def Obligations.BufferCommands : Prop :=
  Encoded 0x08#8 (fun rd : BitVec 2 => (bufField rd, 0#4, 0#4, 0#12)) (fun _ => True) (fun rd => .bclr rd) ∧
  Encoded 0x09#8 (fun x : BitVec 2 × BitVec 2 => (bufField x.1, bufField x.2, 0#4, 0#12)) (fun _ => True)
    (fun x => .bcpy x.1 x.2) ∧
  (∀ (rd : BitVec 2) (s : State), ∃ t, exec (.bclr rd) s = .next t ∧ buf t rd = [] ∧ Completed s t ∧ OnlyBuf rd s t) ∧
  (∀ (rd ra : BitVec 2) (s : State), ∃ t, exec (.bcpy rd ra) s = .next t ∧ buf t rd = buf s ra ∧ Completed s t ∧
    OnlyBuf rd s t) ∧
  Encoded 0x0A#8 (fun x : BitVec 2 × BitVec 2 => (bufField x.1, bufField x.2, 0#4, 0#12)) (fun _ => True)
    (fun x => .bcat x.1 x.2) ∧
  ∀ (rd ra : BitVec 2) (s : State), let n := (buf s rd).length + (buf s ra).length
    ∃ t, exec (.bcat rd ra) s = .next t ∧
      if n > s.cfg.cap then CommandFault 0x05#8 (BitVec.ofNat 24 n) s t
      else buf t rd = buf s rd ++ buf s ra ∧ Completed s t ∧ OnlyBuf rd s t

/-- `KSETK` and `KSETIV` (40_system_buffer.md R126, R127). -/
def Obligations.KsetkKsetiv : Prop :=
  Encoded 0x0C#8 (fun x : BitVec 3 × BitVec 2 => (slotField x.1, bufField x.2, 0#4, 0#12)) (fun _ => True)
    (fun x => .ksetk x.1 x.2) ∧
  Encoded 0x0D#8 (fun x : BitVec 3 × BitVec 2 => (slotField x.1, bufField x.2, 0#4, 0#12)) (fun _ => True)
    (fun x => .ksetiv x.1 x.2) ∧
  (∀ (kd : BitVec 3) (ra : BitVec 2) (s : State), ∃ t, exec (.ksetk kd ra) s = .next t ∧
    if (buf s ra).length > 24 then CommandFault 0x03#8 0#24 s t
    else (slot t kd).key = buf s ra ∧ Completed s t ∧ OnlyKey kd s t) ∧
  ∀ (kd : BitVec 3) (ra : BitVec 2) (s : State), ∃ t, exec (.ksetiv kd ra) s = .next t ∧
    if (buf s ra).length > 16 then CommandFault 0x03#8 1#24 s t
    else (slot t kd).iv = buf s ra ∧ Completed s t ∧ OnlyIv kd s t

/-! ### Base64 and UTF-8 -/

/-- `B64ENC`, with and without `U` (41_base64.md R146): the padded length is tested even when `B64PAD = 0`. -/
def Obligations.B64enc : Prop :=
  Encoded 0x10#8 (fun x : BitVec 2 × BitVec 2 × Bool => (bufField x.1, bufField x.2.1, 0#4, optionField x.2.2 false))
    (fun _ => True) (fun x => .b64enc x.1 x.2.1 x.2.2) ∧
  ∀ (rd ra : BitVec 2) (u : Bool) (s : State), let m := 4 * (((buf s ra).length + 2) / 3)
    ∃ t, exec (.b64enc rd ra u) s = .next t ∧
      if m > s.cfg.cap then CommandFault 0x05#8 (BitVec.ofNat 24 m) s t
      else buf t rd = b64enc s.ctrl.b64Pad (buf s ra) ∧ Completed s t ∧ OnlyBuf rd s t

/-- `B64DEC`, with and without `U`, and `U8CHK` (41_base64.md R147, R148): never an overflow; ill-formed text, where it is
checked, faults with the offset; `U8CHK` writes nothing. -/
def Obligations.B64decU8chk : Prop :=
  Encoded 0x11#8 (fun x : BitVec 2 × BitVec 2 × Bool => (bufField x.1, bufField x.2.1, 0#4, optionField x.2.2 false))
    (fun _ => True) (fun x => .b64dec x.1 x.2.1 x.2.2) ∧
  (∀ (rd ra : BitVec 2) (u : Bool) (s : State), let r := b64dec (buf s ra)
    ∃ t, exec (.b64dec rd ra u) s = .next t ∧
      match if u then utf8Bad r else none with
      | some i => CommandFault 0x02#8 (BitVec.ofNat 24 i) s t
      | none => buf t rd = r ∧ Completed s t ∧ OnlyBuf rd s t) ∧
  Encoded 0x12#8 (fun ra : BitVec 2 => (0#4, bufField ra, 0#4, 0#12)) (fun _ => True) (fun ra => .u8chk ra) ∧
  ∀ (ra : BitVec 2) (s : State), ∃ t, exec (.u8chk ra) s = .next t ∧
    match utf8Bad (buf s ra) with
    | some i => CommandFault 0x02#8 (BitVec.ofNat 24 i) s t
    | none => Completed s t ∧ OnlyStatus s t

/-- Base64 decoding undoes encoding for both values of `pad` (41_base64.md R144), the encoding has the length of R141, and
`ALPHA` and `VAL` are inverse to each other with `=` outside the alphabet (R140). -/
def Obligations.Base64RoundTrip : Prop :=
  (∀ (pad : Bool) (x : Bytes), b64dec (b64enc pad x) = x ∧
    (b64enc pad x).length = if pad then 4 * ((x.length + 2) / 3) else (4 * x.length + 2) / 3) ∧
  (∀ v : BitVec 6, alphaVal (alpha v) = some v) ∧ (∀ (t : Byte) (v : BitVec 6), alphaVal t = some v → alpha v = t) ∧
  alphaVal 0x3D#8 = none

/-- `utf8_bad` finds nothing exactly in the concatenations of encoded scalar values, and otherwise the end of the longest
well-formed beginning: the offset after which no encoded scalar value follows (41_base64.md R145, whose table is the
Unicode Standard's definition). -/
def Obligations.Utf8WellFormed : Prop :=
  ∀ x : Bytes,
    (utf8Bad x = none ↔ ∃ cs : List Nat, (∀ c ∈ cs, IsScalar c) ∧ x = cs.flatMap utf8Encode) ∧
    ∀ i : Nat, utf8Bad x = some i → i < x.length ∧ utf8Bad (x.take i) = none ∧
      ∀ c : Nat, IsScalar c → ¬ utf8Encode c <+: x.drop i

/-! ### MD5 -/

/-- `MD5INIT` and `MD5UPD` (42_md5.md R171, R172). -/
def Obligations.Md5InitUpd : Prop :=
  Encoded 0x20#8 (fun _ : Unit => (0#4, 0#4, 0#4, 0#12)) (fun _ => True) (fun _ => .md5init) ∧
  Encoded 0x21#8 (fun ra : BitVec 2 => (0#4, bufField ra, 0#4, 0#12)) (fun _ => True) (fun ra => .md5upd ra) ∧
  (∀ s : State, ∃ t, exec .md5init s = .next t ∧
    t.md = ⟨⟨0x67452301#32, 0xEFCDAB89#32, 0x98BADCFE#32, 0x10325476#32⟩, [], 0#64⟩ ∧ Completed s t ∧ OnlyMd s t) ∧
  ∀ (ra : BitVec 2) (s : State), ∃ t, exec (.md5upd ra) s = .next t ∧ t.md = md5Absorb s.md (buf s ra) ∧ Completed s t ∧
    OnlyMd s t

/-- `MD5FIN` (42_md5.md R173): the digest in the format, and the context initialised again; the reserved format is
illegal. -/
def Obligations.Md5Fin : Prop :=
  Encoded 0x22#8 (fun x : BitVec 2 × BitVec 2 => (bufField x.1, 0#4, 0#4, selectorField x.2)) (fun x => x.2 ≠ 3#2)
    (fun x => .md5fin x.1 x.2) ∧
  ∀ (rd fmt : BitVec 2) (s : State), ∃ t, exec (.md5fin rd fmt) s = .next t ∧
    if fmt = 3#2 then CommandFault 0x01#8 0#24 s t
    else buf t rd = digestText s.ctrl fmt (md5Finish s.md) ∧
      t.md = ⟨⟨0x67452301#32, 0xEFCDAB89#32, 0x98BADCFE#32, 0x10325476#32⟩, [], 0#64⟩ ∧ Completed s t ∧
      OnlyBuf rd s { t with md := s.md }

/-- `MD5` and `HMAC` (42_md5.md R174, R177): `MD` is untouched (R175); the reserved format is illegal. -/
def Obligations.Md5Hmac : Prop :=
  Encoded 0x23#8 (fun x : BitVec 2 × BitVec 2 × BitVec 2 => (bufField x.1, bufField x.2.1, 0#4, selectorField x.2.2))
    (fun x => x.2.2 ≠ 3#2) (fun x => .md5 x.1 x.2.1 x.2.2) ∧
  Encoded 0x24#8 (fun x : BitVec 2 × BitVec 2 × BitVec 2 × BitVec 2 =>
      (bufField x.1, bufField x.2.1, bufField x.2.2.1, selectorField x.2.2.2))
    (fun x => x.2.2.2 ≠ 3#2) (fun x => .hmac x.1 x.2.1 x.2.2.1 x.2.2.2) ∧
  (∀ (rd ra fmt : BitVec 2) (s : State), ∃ t, exec (.md5 rd ra fmt) s = .next t ∧
    if fmt = 3#2 then CommandFault 0x01#8 0#24 s t
    else buf t rd = digestText s.ctrl fmt (md5Sum (buf s ra)) ∧ Completed s t ∧ OnlyBuf rd s t) ∧
  ∀ (rd ra rb fmt : BitVec 2) (s : State), ∃ t, exec (.hmac rd ra rb fmt) s = .next t ∧
    if fmt = 3#2 then CommandFault 0x01#8 0#24 s t
    else buf t rd = digestText s.ctrl fmt (hmacMd5 (buf s ra) (buf s rb)) ∧ Completed s t ∧ OnlyBuf rd s t

/-- Absorbing twice is absorbing the concatenation (42_md5.md R168), and the padding of a tail of at most 63 bytes fills
one block up to 55 bytes and two from 56 on, ending in the bit length (R167). -/
def Obligations.Md5Absorb : Prop :=
  (∀ (ctx : Md5Ctx) (x y : Bytes), md5Absorb (md5Absorb ctx x) y = md5Absorb ctx (x ++ y)) ∧
  ∀ (r : Bytes) (len : BitVec 64), r.length < 64 →
    (md5Pad r len).length = (if r.length ≤ 55 then 64 else 128) ∧ r ++ [0x80#8] <+: md5Pad r len ∧
    (∀ i, r.length < i → i + 8 < (md5Pad r len).length → (md5Pad r len).getD i 0#8 = 0#8) ∧
    ∀ j, j < 8 → ((md5Pad r len).getD ((md5Pad r len).length - 8 + j) 0#8).toNat = len.toNat / 256 ^ j % 256

/-- `MD5INIT`, then any number of chunks through `MD5UPD`, then `MD5FIN` writes the same bytes as the one-shot `MD5` of their
concatenation (42_md5.md R178), and all of these commands complete. -/
def Obligations.Md5Split : Prop :=
  ∀ (s : State) (xs : List Bytes) (rd fmt : BitVec 2), fmt ≠ 3#2 →
    ∃ t0 t u v, exec .md5init s = .next t0 ∧ md5UpdAll t0 xs = .next t ∧ exec (.md5fin rd fmt) t = .next u ∧
      exec (.md5 rd 0#2 fmt) (setBuf 0#2 xs.flatten s) = .next v ∧ buf u rd = buf v rd ∧
      u.status = v.status ∧ v.status = ⟨false, true, s.status.fault, s.status.ovr, s.status.err⟩

/-! ### DES and Triple-DES -/

/-- `DESENC`, `DESDEC`, `TDESENC` and `TDESDEC` (43_des.md R213 to R216): the key length is checked first, then that the
input is one block; the IV is not looked at. -/
def Obligations.DesCommands : Prop :=
  Encoded 0x30#8 (fun x : BitVec 2 × BitVec 2 × BitVec 3 => (bufField x.1, bufField x.2.1, slotField x.2.2, 0#12))
    (fun _ => True) (fun x => .desenc x.1 x.2.1 x.2.2) ∧
  Encoded 0x31#8 (fun x : BitVec 2 × BitVec 2 × BitVec 3 => (bufField x.1, bufField x.2.1, slotField x.2.2, 0#12))
    (fun _ => True) (fun x => .desdec x.1 x.2.1 x.2.2) ∧
  BlockCommand .desenc 8 8 desEnc ∧ BlockCommand .desdec 8 8 desDec ∧
  Encoded 0x32#8 (fun x : BitVec 2 × BitVec 2 × BitVec 3 => (bufField x.1, bufField x.2.1, slotField x.2.2, 0#12))
    (fun _ => True) (fun x => .tdesenc x.1 x.2.1 x.2.2) ∧
  Encoded 0x33#8 (fun x : BitVec 2 × BitVec 2 × BitVec 3 => (bufField x.1, bufField x.2.1, slotField x.2.2, 0#12))
    (fun _ => True) (fun x => .tdesdec x.1 x.2.1 x.2.2) ∧
  BlockCommand .tdesenc 24 8 tdesEnc ∧ BlockCommand .tdesdec 24 8 tdesDec

/-- DES decryption is the exact inverse of encryption, both ways (43_des.md R210), and the parity bits of the key do not
matter (R207); Triple-DES decryption is the exact inverse, and with three equal keys both directions are single DES
(R212). -/
def Obligations.DesInverse : Prop :=
  (∀ k b : Bytes, k.length = 8 → b.length = 8 → desDec k (desEnc k b) = b ∧ desEnc k (desDec k b) = b) ∧
  (∀ k k' b : Bytes, k.length = 8 → k'.length = 8 → (k.map fun x => x ||| 1#8) = (k'.map fun x => x ||| 1#8) →
    desEnc k b = desEnc k' b ∧ desDec k b = desDec k' b) ∧
  (∀ k b : Bytes, k.length = 24 → b.length = 8 → tdesDec k (tdesEnc k b) = b) ∧
  ∀ k b : Bytes, k.length = 8 → b.length = 8 →
    tdesEnc (k ++ k ++ k) b = desEnc k b ∧ tdesDec (k ++ k ++ k) b = desDec k b

/-! ### AES -/

/-- `AESENC` and `AESDEC` (44_aes.md R252, R253). -/
def Obligations.AesCommands : Prop :=
  Encoded 0x40#8 (fun x : BitVec 2 × BitVec 2 × BitVec 3 => (bufField x.1, bufField x.2.1, slotField x.2.2, 0#12))
    (fun _ => True) (fun x => .aesenc x.1 x.2.1 x.2.2) ∧
  Encoded 0x41#8 (fun x : BitVec 2 × BitVec 2 × BitVec 3 => (bufField x.1, bufField x.2.1, slotField x.2.2, 0#12))
    (fun _ => True) (fun x => .aesdec x.1 x.2.1 x.2.2) ∧
  BlockCommand .aesenc 16 16 aesEnc ∧ BlockCommand .aesdec 16 16 aesDec

/-- The tables against the algebra: `SBOX` is the affine map of the field inverse (44_aes.md R242; the inverse is the power
254), `ISBOX` is its inverse (R243), and the round constants are the powers of 2 (R244). -/
def Obligations.AesTables : Prop :=
  (∀ x : Byte, let i := gfPow x 254
    gfMul x i = (if x = 0#8 then 0#8 else 1#8) ∧
    aesSBox x = i ^^^ i.rotateLeft 1 ^^^ i.rotateLeft 2 ^^^ i.rotateLeft 3 ^^^ i.rotateLeft 4 ^^^ 0x63#8) ∧
  (∀ x : Byte, aesInvSBox (aesSBox x) = x) ∧
  ∀ j : Nat, j < 10 → aesRcon.getD j 0#8 = gfPow 2#8 j

/-- AES decryption is the exact inverse of encryption, both ways (44_aes.md R251). -/
def Obligations.AesInverse : Prop :=
  ∀ k b : Bytes, k.length = 16 → b.length = 16 → aesDec k (aesEnc k b) = b ∧ aesEnc k (aesDec k b) = b

/-- A full AES round is the exclusive or of four T-table columns and the round key (44_aes.md R249). -/
def Obligations.AesTTables : Prop :=
  ∀ (w : List Bytes) (r : Nat) (s : Bytes), s.length = 16 →
    aesAddRoundKey w r (aesMixColumns (aesShiftRows (aesSubBytes s))) =
      xorBytes (aesTColumn s 0 ++ aesTColumn s 1 ++ aesTColumn s 2 ++ aesTColumn s 3) (aesRoundKey w r)

/-! ### CBC -/

/-- `CBCENC` (45_cbc.md R289, R282): the checks in order, the result's length; the reserved selector is illegal. -/
def Obligations.Cbcenc : Prop :=
  Encoded 0x50#8 (fun x : BitVec 2 × BitVec 2 × BitVec 3 × BitVec 2 =>
      (bufField x.1, bufField x.2.1, slotField x.2.2.1, selectorField x.2.2.2))
    (fun x => x.2.2.2 ≠ 3#2) (fun x => .cbcenc x.1 x.2.1 x.2.2.1 x.2.2.2) ∧
  ∀ (rd ra : BitVec 2) (k : BitVec 3) (c : BitVec 2) (s : State), ∃ t, exec (.cbcenc rd ra k c) s = .next t ∧
    match cipherSelector c with
    | none => c = 3#2 ∧ CommandFault 0x01#8 0#24 s t
    | some x =>
      let m := (buf s ra).length + blockLen x - (buf s ra).length % blockLen x
      if (slot s k).key.length ≠ keyLen x then CommandFault 0x03#8 0#24 s t
      else if (slot s k).iv.length ≠ blockLen x then CommandFault 0x03#8 1#24 s t
      else if m > s.cfg.cap then CommandFault 0x05#8 (BitVec.ofNat 24 m) s t
      else buf t rd = cbcEnc x (slot s k) (buf s ra) ∧ (buf t rd).length = m ∧ Completed s t ∧ OnlyBuf rd s t

/-- `CBCDEC` (45_cbc.md R290, R282, R284, R285): the checks in order; permissive unpadding trusts the last byte, hardened
unpadding faults with it; the reserved selector is illegal. -/
def Obligations.Cbcdec : Prop :=
  Encoded 0x51#8 (fun x : BitVec 2 × BitVec 2 × BitVec 3 × BitVec 2 =>
      (bufField x.1, bufField x.2.1, slotField x.2.2.1, selectorField x.2.2.2))
    (fun x => x.2.2.2 ≠ 3#2) (fun x => .cbcdec x.1 x.2.1 x.2.2.1 x.2.2.2) ∧
  ∀ (rd ra : BitVec 2) (k : BitVec 3) (c : BitVec 2) (s : State), ∃ t, exec (.cbcdec rd ra k c) s = .next t ∧
    match cipherSelector c with
    | none => c = 3#2 ∧ CommandFault 0x01#8 0#24 s t
    | some x =>
      let ct := buf s ra
      let q := cbcDecRaw x (slot s k) ct
      let p := (q.getLastD 0#8).toNat
      if (slot s k).key.length ≠ keyLen x then CommandFault 0x03#8 0#24 s t
      else if (slot s k).iv.length ≠ blockLen x then CommandFault 0x03#8 1#24 s t
      else if ct.length = 0 ∨ ct.length % blockLen x ≠ 0 then CommandFault 0x04#8 (BitVec.ofNat 24 ct.length) s t
      else if s.ctrl.padChk = true ∧
          (p < 1 ∨ p > blockLen x ∨ q.drop (q.length - p) ≠ List.replicate p (BitVec.ofNat 8 p)) then
        CommandFault 0x08#8 (BitVec.ofNat 24 p) s t
      else buf t rd = q.take (q.length - p) ∧ Completed s t ∧ OnlyBuf rd s t

/-- CBC decryption undoes encryption for all three ciphers, all plaintexts and both settings of `PADCHK`; a plaintext of
whole blocks grows by one block (45_cbc.md R288). -/
def Obligations.CbcRoundTrip : Prop :=
  ∀ (c : Cipher) (k : KeySlot) (p : Bytes) (hardened : Bool), k.key.length = keyLen c → k.iv.length = blockLen c →
    cbcDec hardened c k (cbcEnc c k p) = .ok p ∧
    (cbcEnc c k p).length = blockLen c * (p.length / blockLen c + 1)

/-! ### Key derivation -/

/-- `KDFK` and `KDFIV` (46_kdf.md R301 to R303): every `imm` decodes; a slice outside the 32 digits or above the capacity
faults; else the key, or the IV, is the slice of the hexadecimal digest. -/
def Obligations.KdfCommands : Prop :=
  Encoded 0x60#8 (fun x : BitVec 3 × BitVec 2 × BitVec 6 × BitVec 6 =>
      (slotField x.1, bufField x.2.1, 0#4, x.2.2.1 ++ x.2.2.2))
    (fun _ => True) (fun x => .kdfk x.1 x.2.1 x.2.2.1 x.2.2.2) ∧
  Encoded 0x61#8 (fun x : BitVec 3 × BitVec 2 × BitVec 6 × BitVec 6 =>
      (slotField x.1, bufField x.2.1, 0#4, x.2.2.1 ++ x.2.2.2))
    (fun _ => True) (fun x => .kdfiv x.1 x.2.1 x.2.2.1 x.2.2.2) ∧
  (∀ (kd : BitVec 3) (ra : BitVec 2) (off len : BitVec 6) (s : State), ∃ t, exec (.kdfk kd ra off len) s = .next t ∧
    if off.toNat + len.toNat > 32 ∨ len.toNat > 24 then
      CommandFault 0x06#8 (BitVec.ofNat 24 (off.toNat * 64 + len.toNat)) s t
    else (slot t kd).key = ((hexText s.ctrl.hexCase (md5Sum (buf s ra))).drop off.toNat).take len.toNat ∧
      (slot t kd).key.length = len.toNat ∧ Completed s t ∧ OnlyKey kd s t) ∧
  ∀ (kd : BitVec 3) (ra : BitVec 2) (off len : BitVec 6) (s : State), ∃ t, exec (.kdfiv kd ra off len) s = .next t ∧
    if off.toNat + len.toNat > 32 ∨ len.toNat > 16 then
      CommandFault 0x06#8 (BitVec.ofNat 24 (off.toNat * 64 + len.toNat)) s t
    else (slot t kd).iv = ((hexText s.ctrl.hexCase (md5Sum (buf s ra))).drop off.toNat).take len.toNat ∧
      (slot t kd).iv.length = len.toNat ∧ Completed s t ∧ OnlyIv kd s t

/-! ### The pipeline -/

/-- `PENC`'s Start step from `IDLE` and Post step from `POST` (47_pipeline.md R328, R330). -/
def Obligations.PencSteps : Prop :=
  Encoded 0x70#8 (fun x : BitVec 2 × BitVec 2 => (bufField x.1, bufField x.2, 0#4, 0#12)) (fun _ => True)
    (fun x => .penc x.1 x.2) ∧
  (∀ (rd ra : BitVec 2) (s : State), s.sst = .idle →
    exec (.penc rd ra) s = .next { s with
      work := buf s ra, spc := 0#5, sdir := .enc, sst := if s.plen.toNat = 0 then .post else .run }) ∧
  ∀ (rd ra : BitVec 2) (s : State), s.sst = .post → ∃ t, exec (.penc rd ra) s = .next t ∧ buf t rd = s.work ∧
    t.sst = .idle ∧ Completed s t ∧ OnlyBuf rd s { t with sst := s.sst, work := s.work }

/-- `PDEC`'s Start step from `IDLE` and Post step from `POST` with its options (47_pipeline.md R326, R329, R330, R331): the
`U` check comes before the `R` re-encoding. -/
def Obligations.PdecSteps : Prop :=
  Encoded 0x71#8 (fun x : BitVec 2 × BitVec 2 × Bool × Bool =>
      (bufField x.1, bufField x.2.1, 0#4, optionField x.2.2.1 x.2.2.2))
    (fun _ => True) (fun x => .pdec x.1 x.2.1 x.2.2.1 x.2.2.2) ∧
  (∀ (rd ra : BitVec 2) (u r : Bool) (s : State), s.sst = .idle →
    exec (.pdec rd ra u r) s = .next { s with
      work := buf s ra, spc := s.plen, sdir := .dec, sst := if s.plen.toNat = 0 then .post else .run }) ∧
  ∀ (rd ra : BitVec 2) (u r : Bool) (s : State), s.sst = .post →
    let m := 4 * ((s.work.length + 2) / 3)
    ∃ t, exec (.pdec rd ra u r) s = .next t ∧
      match if u then utf8Bad s.work else none with
      | some i => CommandFault 0x02#8 (BitVec.ofNat 24 i) s t
      | none =>
        if r = true ∧ m > s.cfg.cap then CommandFault 0x05#8 (BitVec.ofNat 24 m) s t
        else buf t rd = (if r then b64enc s.ctrl.b64Pad s.work else s.work) ∧ t.sst = .idle ∧ Completed s t ∧
          OnlyBuf rd s { t with sst := s.sst, work := s.work }

/-- The three stage tags in encode direction (47_pipeline.md R322, R328): the checks in order, `W`, `SPC + 1`, and `POST` in
the step that reaches the end of the program. -/
def Obligations.TagsEncode : Prop :=
  CipherStageEnc .tag1 .aes ∧ CipherStageEnc .tag2 .des ∧
  ∀ s : State, s.sst = .run → s.sdir = .enc → s.spc.toNat < s.plen.toNat →
    let m := 4 * ((s.work.length + 2) / 3)
    ∃ t, exec .tag3 s = .next t ∧
      if m > s.cfg.cap then StageFault 0x05#8 (BitVec.ofNat 24 m) s.spc s t
      else StageDone (b64enc s.ctrl.b64Pad s.work) (s.spc + 1#5) (if s.spc + 1#5 = s.plen then .post else .run) s t

/-- The three stage tags in decode direction (47_pipeline.md R323, R329): `SPC - 1` in every case, the checks in order, and
`POST` when the new `SPC` is 0. -/
def Obligations.TagsDecode : Prop :=
  CipherStageDec .tag1 .aes ∧ CipherStageDec .tag2 .des ∧
  ∀ s : State, s.sst = .run → s.sdir = .dec → 0 < s.spc.toNat →
    ∃ t, exec .tag3 s = .next t ∧
      StageDone (b64dec s.work) (s.spc - 1#5) (if s.spc - 1#5 = 0#5 then .post else .run) s t

/-- The model's choice (log entry 10): where the rules list no core step, the sequencer's instructions stop with
`noCoreStep`. No state that meets the invariant does so (`NeverStops`). -/
def Obligations.NoCoreStep : Prop :=
  (∀ s : State, stageReady s = false →
    exec .tag1 s = .fault .noCoreStep ∧ exec .tag2 s = .fault .noCoreStep ∧ exec .tag3 s = .fault .noCoreStep) ∧
  ∀ (rd ra : BitVec 2) (u r : Bool) (s : State), s.sst = .run →
    exec (.penc rd ra) s = .fault .noCoreStep ∧ exec (.pdec rd ra u r) s = .fault .noCoreStep

/-- The inverse stage undoes the forward stage wherever that does not fault (47_pipeline.md R323), for both settings of
`PADCHK` and `B64PAD`. -/
def Obligations.StageRoundTrip : Prop :=
  ∀ (cap : Nat) (c c' : Ctrl) (t : Byte) (k : KeySlot) (x y : Bytes),
    stageEnc cap c t k x = .ok y → stageDec c' t k y = .ok x

/-- `PENC` and `PDEC` over their `PLEN + 2` core steps are the functions of the state at issue of 47_pipeline.md R325 and
R326, fault and success alike; without a fault of a stage they take exactly that many steps, and no buffer changes before
the last (R327, R330). The spec leaves `W` unspecified afterwards; it is empty in the model (log entry 3). -/
def Obligations.PipelineRefines : Prop :=
  (∀ (s : State) (rd ra : BitVec 2), Inv s → Issued s → decode s.cw = .ok (.penc rd ra) →
    runSteps (s.plen.toNat + 2) s = .next (pencResult rd ra s) ∧
    ∀ w, encStages s s.plen.toNat 0 (buf s ra) = .ok w → ∀ n, n < s.plen.toNat + 2 →
      ∃ t, runSteps n s = .next t ∧ t.status.busy = true ∧ ∀ b, buf t b = buf s b) ∧
  ∀ (s : State) (rd ra : BitVec 2) (u r : Bool), Inv s → Issued s → decode s.cw = .ok (.pdec rd ra u r) →
    runSteps (s.plen.toNat + 2) s = .next (pdecResult rd ra u r s) ∧
    ∀ w, decStages s s.plen.toNat (buf s ra) = .ok w → ∀ n, n < s.plen.toNat + 2 →
      ∃ t, runSteps n s = .next t ∧ t.status.busy = true ∧ ∀ b, buf t b = buf s b

/-- End-to-end round trip (47_pipeline.md R332): after a `PENC` that completes without fault, a `PDEC` of its result
completes without fault and gives the original, also with `U` when the original was well-formed UTF-8. -/
def Obligations.EndToEnd : Prop :=
  ∀ (s t : State) (rd ra re : BitVec 2) (u : Bool) (w : Word), Inv s → Issued s → decode s.cw = .ok (.penc rd ra) →
    runSteps (s.plen.toNat + 2) s = .next t → t.status.fault = false → decode w = .ok (.pdec re rd u false) →
    (u = true → utf8Bad (buf s ra) = none) →
    ∃ t', runSteps (s.plen.toNat + 2) (issue w t) = .next t' ∧ buf t' re = buf s ra ∧ t'.status.busy = false ∧
      t'.status.done = true ∧ t'.status.fault = false

/-! ### Rules of the whole machine -/

/-- Faults are precise (60_exceptions.md R364, R365): a step that raises a fault leaves buffers, key slots, the MD5 context,
`CTRL` and the program as they were and records the command word; a core step that does not end its command changes
nothing but `SEQ` and `W`. -/
def Obligations.PreciseFaults : Prop :=
  (∀ s t : State, step s = .next t → s.status.fault = false → t.status.fault = true →
    (∀ b, buf t b = buf s b) ∧ (∀ k, slot t k = slot s k) ∧ t.md = s.md ∧ t.ctrl = s.ctrl ∧ t.plen = s.plen ∧
    t.pcfg = s.pcfg ∧ t.pslot = s.pslot ∧ t.cw = s.cw ∧ t.ecmd = s.cw ∧ t.sst = .idle ∧ t.status.busy = false ∧
    t.status.done = s.status.done ∧ t.status.ovr = s.status.ovr) ∧
  ∀ s t : State, coreStep s = .next t → t.status.busy = true →
    { t with sst := s.sst, spc := s.spc, sdir := s.sdir, work := s.work } = s

/-- Progress (70_reset_and_hazards.md R409): a command in execution ends within 18 core steps, with `DONE` or `FAULT`. -/
def Obligations.Progress : Prop :=
  ∀ s : State, Inv s → s.events = [] → s.status.busy = true →
    ∃ n t, n ≤ 18 ∧ runSteps n s = .next t ∧ t.status.busy = false ∧ (t.status.done = true ∨ t.status.fault = true)

/-- Whatever the interleaving of host reads with core steps, the core steps alone decide the state (20_memory.md R72,
70_reset_and_hazards.md R410); the model's reply record aside. -/
def Obligations.Interleaving : Prop :=
  ∀ (es : List HostEvent) (s t : State), (∀ e ∈ es, e = .core ∨ ∃ width addr, e = .read width addr) →
    runSteps es.length { s with events := es } = .next t →
    ∃ u, runSteps (es.count .core) { s with events := List.replicate (es.count .core) .core } = .next u ∧
      { t with reply := none } = { u with reply := none }

/-- Who writes hidden data: a key slot changes only by `KSETK`, `KSETIV`, `KDFK`, `KDFIV` of that slot, or by reset
(10_state.md R23, 20_memory.md R77); the MD5 context only by `MD5INIT`, `MD5UPD`, `MD5FIN`, or by reset (R24). -/
def Obligations.HiddenWriters : Prop :=
  (∀ (s t : State) (k : BitVec 3), step s = .next t → slot t k ≠ slot s k →
    (s.status.busy = true ∧ ∃ (i : Instr) (ra : BitVec 2) (off len : BitVec 6), decode s.cw = .ok i ∧
      (i = .ksetk k ra ∨ i = .ksetiv k ra ∨ i = .kdfk k ra off len ∨ i = .kdfiv k ra off len)) ∨
    (∃ rest, s.events = .hardReset :: rest) ∨
    ∃ v rest, s.events = .write 32 0x00010#20 v :: rest ∧ v.getLsbD 0 = true) ∧
  ∀ s t : State, step s = .next t → t.md ≠ s.md →
    (s.status.busy = true ∧ ∃ (i : Instr) (ra fmt : BitVec 2), decode s.cw = .ok i ∧
      (i = .md5init ∨ i = .md5upd ra ∨ i = .md5fin ra fmt)) ∨
    (∃ rest, s.events = .hardReset :: rest) ∨
    ∃ v rest, s.events = .write 32 0x00010#20 v :: rest ∧ v.getLsbD 0 = true

/-- No instruction changes the configuration or the pipeline program, and only `PENC`, `PDEC` and the stage tags touch
`SEQ` (10_state.md R31, 20_memory.md R75). -/
def Obligations.ProgrammedKept : Prop :=
  ∀ (i : Instr) (s t : State), exec i s = .next t →
    t.cfg = s.cfg ∧ t.ctrl = s.ctrl ∧ t.cw = s.cw ∧ t.plen = s.plen ∧ t.pcfg = s.pcfg ∧ t.pslot = s.pslot ∧
    t.events = s.events ∧ t.reply = s.reply ∧
    (s.sst = .idle → (∀ rd ra, i ≠ .penc rd ra) → (∀ rd ra u r, i ≠ .pdec rd ra u r) →
      t.sst = .idle ∧ t.spc = s.spc ∧ t.sdir = s.sdir)

/-- No host read depends on the key slots, on the pending bytes of the MD5 context or on `W`: they are in no address space
(20_memory.md R60, R77). -/
def Obligations.HiddenState : Prop :=
  ∀ (s : State) (slots' : Vector KeySlot 8) (pending w : Bytes) (width : Nat) (addr : BitVec 20),
    pending.length = s.md.buf.length →
    readReply width addr { s with slots := slots', md := { s.md with buf := pending }, work := w } =
      readReply width addr s

/-- The working string is unobservable while the sequencer is idle (10_state.md R38): two states that differ only in it step
to two such states. -/
def Obligations.WorkUnobservable : Prop :=
  ∀ a b a' : State, SameVisible a b → step a = .next a' → ∃ b', step b = .next b' ∧ SameVisible a' b'

/-- "`BUSY` and `FAULT` are never 1 together" (10_state.md R27, a derived remark) does not hold: R28 sets `BUSY` in the write
that issues an `ERRCLR`, and `FAULT` falls only when that command completes (log entry 6). Expected to fail. -/
def Obligations.BusyFaultExclusive : Prop :=
  ∀ s t : State, Inv s → ¬ (s.status.busy = true ∧ s.status.fault = true) → step s = .next t →
    ¬ (t.status.busy = true ∧ t.status.fault = true)

end
end

