-- ==== Sys2Proof/Laws/Encoding.lean ====
section
/-! SUPPORT. The fields of a command word and the word of its fields are inverse to each other, and each operand's field
reads back as the operand (30_encoding.md R91 to R93). -/

namespace Sys2Proof

theorem fieldsOf_wordOf (f : Fields) : fieldsOf (wordOf f) = f := by
  obtain ⟨op, rd, ra, rb, imm⟩ := f
  simp only [fieldsOf, wordOf, Fields.mk.injEq]
  refine ⟨?_, ?_, ?_, ?_, ?_⟩ <;>
  · apply BitVec.eq_of_getLsbD_eq
    intro i hi
    simp only [BitVec.getLsbD_extractLsb', BitVec.getLsbD_append]
    simp only [hi, decide_true, Bool.true_and]
    repeat' split
    all_goals first | omega | (congr 1; omega)

theorem wordOf_fieldsOf (w : Word) : wordOf (fieldsOf w) = w := by
  apply BitVec.eq_of_getLsbD_eq
  intro i hi
  simp only [fieldsOf, wordOf, BitVec.getLsbD_extractLsb', BitVec.getLsbD_append]
  repeat' split
  all_goals
    rw [decide_eq_true (by omega), Bool.true_and]
    congr 1
    omega

@[simp] theorem fieldBuf_bufField (e : DecodeError) (b : BitVec 2) : fieldBuf e (bufField b) = .ok b := by
  revert b; cases e <;> decide

@[simp] theorem fieldSlot_slotField (e : DecodeError) (k : BitVec 3) : fieldSlot e (slotField k) = .ok k := by
  revert k; cases e <;> decide

@[simp] theorem fieldZero_zero (e : DecodeError) : fieldZero e 0#4 = .ok () := rfl

@[simp] theorem immZero_zero : immZero 0#12 = .ok () := rfl

@[simp] theorem immOption_optionField (u : Bool) : immOption (optionField u false) = .ok u := by
  cases u <;> rfl

@[simp] theorem immOptions_optionField (u r : Bool) : immOptions (optionField u r) = .ok (u, r) := by
  cases u <;> cases r <;> rfl

theorem immSelector_selectorField (m : BitVec 2) (h : m ≠ 3#2) : immSelector (selectorField m) = .ok m := by
  revert m; decide

@[simp] theorem immSelector_selectorField_reserved : immSelector (selectorField 3#2) = .error .imm := rfl

/-- A field accepted as a buffer number is the field of that number. -/
theorem fieldBuf_ok {e : DecodeError} {f : BitVec 4} {b : BitVec 2} (h : fieldBuf e f = .ok b) : f = bufField b := by
  unfold fieldBuf at h
  split at h
  · cases h; revert f; decide
  · cases h

/-- A field accepted as a key-slot number is the field of that number. -/
theorem fieldSlot_ok {e : DecodeError} {f : BitVec 4} {k : BitVec 3} (h : fieldSlot e f = .ok k) :
    f = slotField k := by
  unfold fieldSlot at h
  split at h
  · cases h; revert f; decide
  · cases h

theorem fieldZero_ok {e : DecodeError} {f : BitVec 4} (h : fieldZero e f = .ok ()) : f = 0#4 := by
  unfold fieldZero at h
  split at h
  · assumption
  · cases h

theorem immZero_ok {f : BitVec 12} (h : immZero f = .ok ()) : f = 0#12 := by
  unfold immZero at h
  split at h
  · assumption
  · cases h

/-- `imm` accepted as a selector is the field of that selector, which is not the reserved one. -/
theorem immSelector_ok {f : BitVec 12} {m : BitVec 2} (h : immSelector f = .ok m) :
    f = selectorField m ∧ m ≠ 3#2 := by
  unfold immSelector at h
  split at h
  · rename_i c
    cases h
    refine ⟨?_, c.2⟩
    have := c.1
    apply BitVec.eq_of_getLsbD_eq
    intro i hi
    simp only [selectorField, BitVec.getLsbD_append, BitVec.getLsbD_extractLsb']
    split
    · simp [*]
    · have e := congrArg (fun v => v.getLsbD (i - 2)) this
      simp only [BitVec.getLsbD_extractLsb', BitVec.getLsbD_zero] at e ⊢
      rw [decide_eq_true (by omega), Bool.true_and] at e
      rw [← e]; congr 1; omega
  · cases h

/-- `imm` accepted as an option bit is the field of that option. -/
theorem immOption_ok {f : BitVec 12} {u : Bool} (h : immOption f = .ok u) : f = optionField u false := by
  revert f u; decide +kernel

/-- `imm` accepted as two option bits is the field of those options. -/
theorem immOptions_ok {f : BitVec 12} {ur : Bool × Bool} (h : immOptions f = .ok ur) : f = optionField ur.1 ur.2 := by
  revert f ur; decide +kernel

end Sys2Proof
end

