-- ==== Sys2Proof/Laws/State.lean ====
section
/-! SUPPORT. What each update of the state leaves in each field, and reading back what was written. -/

namespace Sys2Proof.Machine

@[simp] theorem setBuf_cfg (b : BitVec 2) (v : Bytes) (s : State) : (setBuf b v s).cfg = s.cfg := rfl
@[simp] theorem setBuf_bufs (b : BitVec 2) (v : Bytes) (s : State) : (setBuf b v s).bufs = s.bufs.set b.toNat v b.isLt := rfl
@[simp] theorem setBuf_slots (b : BitVec 2) (v : Bytes) (s : State) : (setBuf b v s).slots = s.slots := rfl
@[simp] theorem setBuf_md (b : BitVec 2) (v : Bytes) (s : State) : (setBuf b v s).md = s.md := rfl
@[simp] theorem setBuf_ctrl (b : BitVec 2) (v : Bytes) (s : State) : (setBuf b v s).ctrl = s.ctrl := rfl
@[simp] theorem setBuf_status (b : BitVec 2) (v : Bytes) (s : State) : (setBuf b v s).status = s.status := rfl
@[simp] theorem setBuf_cw (b : BitVec 2) (v : Bytes) (s : State) : (setBuf b v s).cw = s.cw := rfl
@[simp] theorem setBuf_errinfo (b : BitVec 2) (v : Bytes) (s : State) : (setBuf b v s).errinfo = s.errinfo := rfl
@[simp] theorem setBuf_ecmd (b : BitVec 2) (v : Bytes) (s : State) : (setBuf b v s).ecmd = s.ecmd := rfl
@[simp] theorem setBuf_sst (b : BitVec 2) (v : Bytes) (s : State) : (setBuf b v s).sst = s.sst := rfl
@[simp] theorem setBuf_spc (b : BitVec 2) (v : Bytes) (s : State) : (setBuf b v s).spc = s.spc := rfl
@[simp] theorem setBuf_sdir (b : BitVec 2) (v : Bytes) (s : State) : (setBuf b v s).sdir = s.sdir := rfl
@[simp] theorem setBuf_plen (b : BitVec 2) (v : Bytes) (s : State) : (setBuf b v s).plen = s.plen := rfl
@[simp] theorem setBuf_pcfg (b : BitVec 2) (v : Bytes) (s : State) : (setBuf b v s).pcfg = s.pcfg := rfl
@[simp] theorem setBuf_pslot (b : BitVec 2) (v : Bytes) (s : State) : (setBuf b v s).pslot = s.pslot := rfl
@[simp] theorem setBuf_work (b : BitVec 2) (v : Bytes) (s : State) : (setBuf b v s).work = s.work := rfl
@[simp] theorem setBuf_events (b : BitVec 2) (v : Bytes) (s : State) : (setBuf b v s).events = s.events := rfl
@[simp] theorem setBuf_reply (b : BitVec 2) (v : Bytes) (s : State) : (setBuf b v s).reply = s.reply := rfl

@[simp] theorem setKey_cfg (k : BitVec 3) (v : Bytes) (s : State) : (setKey k v s).cfg = s.cfg := rfl
@[simp] theorem setKey_bufs (k : BitVec 3) (v : Bytes) (s : State) : (setKey k v s).bufs = s.bufs := rfl
@[simp] theorem setKey_slots (k : BitVec 3) (v : Bytes) (s : State) : (setKey k v s).slots = s.slots.set k.toNat { slot s k with key := v } k.isLt := rfl
@[simp] theorem setKey_md (k : BitVec 3) (v : Bytes) (s : State) : (setKey k v s).md = s.md := rfl
@[simp] theorem setKey_ctrl (k : BitVec 3) (v : Bytes) (s : State) : (setKey k v s).ctrl = s.ctrl := rfl
@[simp] theorem setKey_status (k : BitVec 3) (v : Bytes) (s : State) : (setKey k v s).status = s.status := rfl
@[simp] theorem setKey_cw (k : BitVec 3) (v : Bytes) (s : State) : (setKey k v s).cw = s.cw := rfl
@[simp] theorem setKey_errinfo (k : BitVec 3) (v : Bytes) (s : State) : (setKey k v s).errinfo = s.errinfo := rfl
@[simp] theorem setKey_ecmd (k : BitVec 3) (v : Bytes) (s : State) : (setKey k v s).ecmd = s.ecmd := rfl
@[simp] theorem setKey_sst (k : BitVec 3) (v : Bytes) (s : State) : (setKey k v s).sst = s.sst := rfl
@[simp] theorem setKey_spc (k : BitVec 3) (v : Bytes) (s : State) : (setKey k v s).spc = s.spc := rfl
@[simp] theorem setKey_sdir (k : BitVec 3) (v : Bytes) (s : State) : (setKey k v s).sdir = s.sdir := rfl
@[simp] theorem setKey_plen (k : BitVec 3) (v : Bytes) (s : State) : (setKey k v s).plen = s.plen := rfl
@[simp] theorem setKey_pcfg (k : BitVec 3) (v : Bytes) (s : State) : (setKey k v s).pcfg = s.pcfg := rfl
@[simp] theorem setKey_pslot (k : BitVec 3) (v : Bytes) (s : State) : (setKey k v s).pslot = s.pslot := rfl
@[simp] theorem setKey_work (k : BitVec 3) (v : Bytes) (s : State) : (setKey k v s).work = s.work := rfl
@[simp] theorem setKey_events (k : BitVec 3) (v : Bytes) (s : State) : (setKey k v s).events = s.events := rfl
@[simp] theorem setKey_reply (k : BitVec 3) (v : Bytes) (s : State) : (setKey k v s).reply = s.reply := rfl

@[simp] theorem setIv_cfg (k : BitVec 3) (v : Bytes) (s : State) : (setIv k v s).cfg = s.cfg := rfl
@[simp] theorem setIv_bufs (k : BitVec 3) (v : Bytes) (s : State) : (setIv k v s).bufs = s.bufs := rfl
@[simp] theorem setIv_slots (k : BitVec 3) (v : Bytes) (s : State) : (setIv k v s).slots = s.slots.set k.toNat { slot s k with iv := v } k.isLt := rfl
@[simp] theorem setIv_md (k : BitVec 3) (v : Bytes) (s : State) : (setIv k v s).md = s.md := rfl
@[simp] theorem setIv_ctrl (k : BitVec 3) (v : Bytes) (s : State) : (setIv k v s).ctrl = s.ctrl := rfl
@[simp] theorem setIv_status (k : BitVec 3) (v : Bytes) (s : State) : (setIv k v s).status = s.status := rfl
@[simp] theorem setIv_cw (k : BitVec 3) (v : Bytes) (s : State) : (setIv k v s).cw = s.cw := rfl
@[simp] theorem setIv_errinfo (k : BitVec 3) (v : Bytes) (s : State) : (setIv k v s).errinfo = s.errinfo := rfl
@[simp] theorem setIv_ecmd (k : BitVec 3) (v : Bytes) (s : State) : (setIv k v s).ecmd = s.ecmd := rfl
@[simp] theorem setIv_sst (k : BitVec 3) (v : Bytes) (s : State) : (setIv k v s).sst = s.sst := rfl
@[simp] theorem setIv_spc (k : BitVec 3) (v : Bytes) (s : State) : (setIv k v s).spc = s.spc := rfl
@[simp] theorem setIv_sdir (k : BitVec 3) (v : Bytes) (s : State) : (setIv k v s).sdir = s.sdir := rfl
@[simp] theorem setIv_plen (k : BitVec 3) (v : Bytes) (s : State) : (setIv k v s).plen = s.plen := rfl
@[simp] theorem setIv_pcfg (k : BitVec 3) (v : Bytes) (s : State) : (setIv k v s).pcfg = s.pcfg := rfl
@[simp] theorem setIv_pslot (k : BitVec 3) (v : Bytes) (s : State) : (setIv k v s).pslot = s.pslot := rfl
@[simp] theorem setIv_work (k : BitVec 3) (v : Bytes) (s : State) : (setIv k v s).work = s.work := rfl
@[simp] theorem setIv_events (k : BitVec 3) (v : Bytes) (s : State) : (setIv k v s).events = s.events := rfl
@[simp] theorem setIv_reply (k : BitVec 3) (v : Bytes) (s : State) : (setIv k v s).reply = s.reply := rfl

@[simp] theorem setStageTag_cfg (i : BitVec 4) (t : Byte) (s : State) : (setStageTag i t s).cfg = s.cfg := rfl
@[simp] theorem setStageTag_bufs (i : BitVec 4) (t : Byte) (s : State) : (setStageTag i t s).bufs = s.bufs := rfl
@[simp] theorem setStageTag_slots (i : BitVec 4) (t : Byte) (s : State) : (setStageTag i t s).slots = s.slots := rfl
@[simp] theorem setStageTag_md (i : BitVec 4) (t : Byte) (s : State) : (setStageTag i t s).md = s.md := rfl
@[simp] theorem setStageTag_ctrl (i : BitVec 4) (t : Byte) (s : State) : (setStageTag i t s).ctrl = s.ctrl := rfl
@[simp] theorem setStageTag_status (i : BitVec 4) (t : Byte) (s : State) : (setStageTag i t s).status = s.status := rfl
@[simp] theorem setStageTag_cw (i : BitVec 4) (t : Byte) (s : State) : (setStageTag i t s).cw = s.cw := rfl
@[simp] theorem setStageTag_errinfo (i : BitVec 4) (t : Byte) (s : State) : (setStageTag i t s).errinfo = s.errinfo := rfl
@[simp] theorem setStageTag_ecmd (i : BitVec 4) (t : Byte) (s : State) : (setStageTag i t s).ecmd = s.ecmd := rfl
@[simp] theorem setStageTag_sst (i : BitVec 4) (t : Byte) (s : State) : (setStageTag i t s).sst = s.sst := rfl
@[simp] theorem setStageTag_spc (i : BitVec 4) (t : Byte) (s : State) : (setStageTag i t s).spc = s.spc := rfl
@[simp] theorem setStageTag_sdir (i : BitVec 4) (t : Byte) (s : State) : (setStageTag i t s).sdir = s.sdir := rfl
@[simp] theorem setStageTag_plen (i : BitVec 4) (t : Byte) (s : State) : (setStageTag i t s).plen = s.plen := rfl
@[simp] theorem setStageTag_pcfg (i : BitVec 4) (t : Byte) (s : State) : (setStageTag i t s).pcfg = s.pcfg.set i.toNat t i.isLt := rfl
@[simp] theorem setStageTag_pslot (i : BitVec 4) (t : Byte) (s : State) : (setStageTag i t s).pslot = s.pslot := rfl
@[simp] theorem setStageTag_work (i : BitVec 4) (t : Byte) (s : State) : (setStageTag i t s).work = s.work := rfl
@[simp] theorem setStageTag_events (i : BitVec 4) (t : Byte) (s : State) : (setStageTag i t s).events = s.events := rfl
@[simp] theorem setStageTag_reply (i : BitVec 4) (t : Byte) (s : State) : (setStageTag i t s).reply = s.reply := rfl

@[simp] theorem setStageSlot_cfg (i : BitVec 4) (k : BitVec 3) (s : State) : (setStageSlot i k s).cfg = s.cfg := rfl
@[simp] theorem setStageSlot_bufs (i : BitVec 4) (k : BitVec 3) (s : State) : (setStageSlot i k s).bufs = s.bufs := rfl
@[simp] theorem setStageSlot_slots (i : BitVec 4) (k : BitVec 3) (s : State) : (setStageSlot i k s).slots = s.slots := rfl
@[simp] theorem setStageSlot_md (i : BitVec 4) (k : BitVec 3) (s : State) : (setStageSlot i k s).md = s.md := rfl
@[simp] theorem setStageSlot_ctrl (i : BitVec 4) (k : BitVec 3) (s : State) : (setStageSlot i k s).ctrl = s.ctrl := rfl
@[simp] theorem setStageSlot_status (i : BitVec 4) (k : BitVec 3) (s : State) : (setStageSlot i k s).status = s.status := rfl
@[simp] theorem setStageSlot_cw (i : BitVec 4) (k : BitVec 3) (s : State) : (setStageSlot i k s).cw = s.cw := rfl
@[simp] theorem setStageSlot_errinfo (i : BitVec 4) (k : BitVec 3) (s : State) : (setStageSlot i k s).errinfo = s.errinfo := rfl
@[simp] theorem setStageSlot_ecmd (i : BitVec 4) (k : BitVec 3) (s : State) : (setStageSlot i k s).ecmd = s.ecmd := rfl
@[simp] theorem setStageSlot_sst (i : BitVec 4) (k : BitVec 3) (s : State) : (setStageSlot i k s).sst = s.sst := rfl
@[simp] theorem setStageSlot_spc (i : BitVec 4) (k : BitVec 3) (s : State) : (setStageSlot i k s).spc = s.spc := rfl
@[simp] theorem setStageSlot_sdir (i : BitVec 4) (k : BitVec 3) (s : State) : (setStageSlot i k s).sdir = s.sdir := rfl
@[simp] theorem setStageSlot_plen (i : BitVec 4) (k : BitVec 3) (s : State) : (setStageSlot i k s).plen = s.plen := rfl
@[simp] theorem setStageSlot_pcfg (i : BitVec 4) (k : BitVec 3) (s : State) : (setStageSlot i k s).pcfg = s.pcfg := rfl
@[simp] theorem setStageSlot_pslot (i : BitVec 4) (k : BitVec 3) (s : State) : (setStageSlot i k s).pslot = s.pslot.set i.toNat k i.isLt := rfl
@[simp] theorem setStageSlot_work (i : BitVec 4) (k : BitVec 3) (s : State) : (setStageSlot i k s).work = s.work := rfl
@[simp] theorem setStageSlot_events (i : BitVec 4) (k : BitVec 3) (s : State) : (setStageSlot i k s).events = s.events := rfl
@[simp] theorem setStageSlot_reply (i : BitVec 4) (k : BitVec 3) (s : State) : (setStageSlot i k s).reply = s.reply := rfl

@[simp] theorem complete_cfg (s : State) : (complete s).cfg = s.cfg := rfl
@[simp] theorem complete_bufs (s : State) : (complete s).bufs = s.bufs := rfl
@[simp] theorem complete_slots (s : State) : (complete s).slots = s.slots := rfl
@[simp] theorem complete_md (s : State) : (complete s).md = s.md := rfl
@[simp] theorem complete_ctrl (s : State) : (complete s).ctrl = s.ctrl := rfl
@[simp] theorem complete_status (s : State) : (complete s).status = statusCompleted s.status := rfl
@[simp] theorem complete_cw (s : State) : (complete s).cw = s.cw := rfl
@[simp] theorem complete_errinfo (s : State) : (complete s).errinfo = s.errinfo := rfl
@[simp] theorem complete_ecmd (s : State) : (complete s).ecmd = s.ecmd := rfl
@[simp] theorem complete_sst (s : State) : (complete s).sst = s.sst := rfl
@[simp] theorem complete_spc (s : State) : (complete s).spc = s.spc := rfl
@[simp] theorem complete_sdir (s : State) : (complete s).sdir = s.sdir := rfl
@[simp] theorem complete_plen (s : State) : (complete s).plen = s.plen := rfl
@[simp] theorem complete_pcfg (s : State) : (complete s).pcfg = s.pcfg := rfl
@[simp] theorem complete_pslot (s : State) : (complete s).pslot = s.pslot := rfl
@[simp] theorem complete_work (s : State) : (complete s).work = s.work := rfl
@[simp] theorem complete_events (s : State) : (complete s).events = s.events := rfl
@[simp] theorem complete_reply (s : State) : (complete s).reply = s.reply := rfl

@[simp] theorem clearFault_cfg (s : State) : (clearFault s).cfg = s.cfg := rfl
@[simp] theorem clearFault_bufs (s : State) : (clearFault s).bufs = s.bufs := rfl
@[simp] theorem clearFault_slots (s : State) : (clearFault s).slots = s.slots := rfl
@[simp] theorem clearFault_md (s : State) : (clearFault s).md = s.md := rfl
@[simp] theorem clearFault_ctrl (s : State) : (clearFault s).ctrl = s.ctrl := rfl
@[simp] theorem clearFault_status (s : State) : (clearFault s).status = statusFaultCleared s.status := rfl
@[simp] theorem clearFault_cw (s : State) : (clearFault s).cw = s.cw := rfl
@[simp] theorem clearFault_errinfo (s : State) : (clearFault s).errinfo = 0#32 := rfl
@[simp] theorem clearFault_ecmd (s : State) : (clearFault s).ecmd = 0#32 := rfl
@[simp] theorem clearFault_sst (s : State) : (clearFault s).sst = s.sst := rfl
@[simp] theorem clearFault_spc (s : State) : (clearFault s).spc = s.spc := rfl
@[simp] theorem clearFault_sdir (s : State) : (clearFault s).sdir = s.sdir := rfl
@[simp] theorem clearFault_plen (s : State) : (clearFault s).plen = s.plen := rfl
@[simp] theorem clearFault_pcfg (s : State) : (clearFault s).pcfg = s.pcfg := rfl
@[simp] theorem clearFault_pslot (s : State) : (clearFault s).pslot = s.pslot := rfl
@[simp] theorem clearFault_work (s : State) : (clearFault s).work = s.work := rfl
@[simp] theorem clearFault_events (s : State) : (clearFault s).events = s.events := rfl
@[simp] theorem clearFault_reply (s : State) : (clearFault s).reply = s.reply := rfl

@[simp] theorem takeFault_cfg (r : Raise) (g : Option (BitVec 5)) (s : State) : (takeFault r g s).cfg = s.cfg := rfl
@[simp] theorem takeFault_bufs (r : Raise) (g : Option (BitVec 5)) (s : State) : (takeFault r g s).bufs = s.bufs := rfl
@[simp] theorem takeFault_slots (r : Raise) (g : Option (BitVec 5)) (s : State) : (takeFault r g s).slots = s.slots := rfl
@[simp] theorem takeFault_md (r : Raise) (g : Option (BitVec 5)) (s : State) : (takeFault r g s).md = s.md := rfl
@[simp] theorem takeFault_ctrl (r : Raise) (g : Option (BitVec 5)) (s : State) : (takeFault r g s).ctrl = s.ctrl := rfl
@[simp] theorem takeFault_status (r : Raise) (g : Option (BitVec 5)) (s : State) : (takeFault r g s).status = statusFaulted (raiseCode r) s.status := rfl
@[simp] theorem takeFault_cw (r : Raise) (g : Option (BitVec 5)) (s : State) : (takeFault r g s).cw = s.cw := rfl
@[simp] theorem takeFault_errinfo (r : Raise) (g : Option (BitVec 5)) (s : State) : (takeFault r g s).errinfo = errinfoWord (raiseInfo r) g := rfl
@[simp] theorem takeFault_ecmd (r : Raise) (g : Option (BitVec 5)) (s : State) : (takeFault r g s).ecmd = s.cw := rfl
@[simp] theorem takeFault_sst (r : Raise) (g : Option (BitVec 5)) (s : State) : (takeFault r g s).sst = .idle := rfl
@[simp] theorem takeFault_spc (r : Raise) (g : Option (BitVec 5)) (s : State) : (takeFault r g s).spc = s.spc := rfl
@[simp] theorem takeFault_sdir (r : Raise) (g : Option (BitVec 5)) (s : State) : (takeFault r g s).sdir = s.sdir := rfl
@[simp] theorem takeFault_plen (r : Raise) (g : Option (BitVec 5)) (s : State) : (takeFault r g s).plen = s.plen := rfl
@[simp] theorem takeFault_pcfg (r : Raise) (g : Option (BitVec 5)) (s : State) : (takeFault r g s).pcfg = s.pcfg := rfl
@[simp] theorem takeFault_pslot (r : Raise) (g : Option (BitVec 5)) (s : State) : (takeFault r g s).pslot = s.pslot := rfl
@[simp] theorem takeFault_work (r : Raise) (g : Option (BitVec 5)) (s : State) : (takeFault r g s).work = [] := rfl
@[simp] theorem takeFault_events (r : Raise) (g : Option (BitVec 5)) (s : State) : (takeFault r g s).events = s.events := rfl
@[simp] theorem takeFault_reply (r : Raise) (g : Option (BitVec 5)) (s : State) : (takeFault r g s).reply = s.reply := rfl

@[simp] theorem issue_cfg (v : Word) (s : State) : (issue v s).cfg = s.cfg := rfl
@[simp] theorem issue_bufs (v : Word) (s : State) : (issue v s).bufs = s.bufs := rfl
@[simp] theorem issue_slots (v : Word) (s : State) : (issue v s).slots = s.slots := rfl
@[simp] theorem issue_md (v : Word) (s : State) : (issue v s).md = s.md := rfl
@[simp] theorem issue_ctrl (v : Word) (s : State) : (issue v s).ctrl = s.ctrl := rfl
@[simp] theorem issue_status (v : Word) (s : State) : (issue v s).status = statusIssued s.status := rfl
@[simp] theorem issue_cw (v : Word) (s : State) : (issue v s).cw = v := rfl
@[simp] theorem issue_errinfo (v : Word) (s : State) : (issue v s).errinfo = s.errinfo := rfl
@[simp] theorem issue_ecmd (v : Word) (s : State) : (issue v s).ecmd = s.ecmd := rfl
@[simp] theorem issue_sst (v : Word) (s : State) : (issue v s).sst = s.sst := rfl
@[simp] theorem issue_spc (v : Word) (s : State) : (issue v s).spc = s.spc := rfl
@[simp] theorem issue_sdir (v : Word) (s : State) : (issue v s).sdir = s.sdir := rfl
@[simp] theorem issue_plen (v : Word) (s : State) : (issue v s).plen = s.plen := rfl
@[simp] theorem issue_pcfg (v : Word) (s : State) : (issue v s).pcfg = s.pcfg := rfl
@[simp] theorem issue_pslot (v : Word) (s : State) : (issue v s).pslot = s.pslot := rfl
@[simp] theorem issue_work (v : Word) (s : State) : (issue v s).work = s.work := rfl
@[simp] theorem issue_events (v : Word) (s : State) : (issue v s).events = s.events := rfl
@[simp] theorem issue_reply (v : Word) (s : State) : (issue v s).reply = s.reply := rfl

@[simp] theorem dropWrite_cfg (s : State) : (dropWrite s).cfg = s.cfg := rfl
@[simp] theorem dropWrite_bufs (s : State) : (dropWrite s).bufs = s.bufs := rfl
@[simp] theorem dropWrite_slots (s : State) : (dropWrite s).slots = s.slots := rfl
@[simp] theorem dropWrite_md (s : State) : (dropWrite s).md = s.md := rfl
@[simp] theorem dropWrite_ctrl (s : State) : (dropWrite s).ctrl = s.ctrl := rfl
@[simp] theorem dropWrite_status (s : State) : (dropWrite s).status = statusOverrun s.status := rfl
@[simp] theorem dropWrite_cw (s : State) : (dropWrite s).cw = s.cw := rfl
@[simp] theorem dropWrite_errinfo (s : State) : (dropWrite s).errinfo = s.errinfo := rfl
@[simp] theorem dropWrite_ecmd (s : State) : (dropWrite s).ecmd = s.ecmd := rfl
@[simp] theorem dropWrite_sst (s : State) : (dropWrite s).sst = s.sst := rfl
@[simp] theorem dropWrite_spc (s : State) : (dropWrite s).spc = s.spc := rfl
@[simp] theorem dropWrite_sdir (s : State) : (dropWrite s).sdir = s.sdir := rfl
@[simp] theorem dropWrite_plen (s : State) : (dropWrite s).plen = s.plen := rfl
@[simp] theorem dropWrite_pcfg (s : State) : (dropWrite s).pcfg = s.pcfg := rfl
@[simp] theorem dropWrite_pslot (s : State) : (dropWrite s).pslot = s.pslot := rfl
@[simp] theorem dropWrite_work (s : State) : (dropWrite s).work = s.work := rfl
@[simp] theorem dropWrite_events (s : State) : (dropWrite s).events = s.events := rfl
@[simp] theorem dropWrite_reply (s : State) : (dropWrite s).reply = s.reply := rfl

@[simp] theorem hostRead_cfg (n : Nat) (a : BitVec 20) (s : State) : (hostRead n a s).cfg = s.cfg := rfl
@[simp] theorem hostRead_bufs (n : Nat) (a : BitVec 20) (s : State) : (hostRead n a s).bufs = s.bufs := rfl
@[simp] theorem hostRead_slots (n : Nat) (a : BitVec 20) (s : State) : (hostRead n a s).slots = s.slots := rfl
@[simp] theorem hostRead_md (n : Nat) (a : BitVec 20) (s : State) : (hostRead n a s).md = s.md := rfl
@[simp] theorem hostRead_ctrl (n : Nat) (a : BitVec 20) (s : State) : (hostRead n a s).ctrl = s.ctrl := rfl
@[simp] theorem hostRead_status (n : Nat) (a : BitVec 20) (s : State) : (hostRead n a s).status = s.status := rfl
@[simp] theorem hostRead_cw (n : Nat) (a : BitVec 20) (s : State) : (hostRead n a s).cw = s.cw := rfl
@[simp] theorem hostRead_errinfo (n : Nat) (a : BitVec 20) (s : State) : (hostRead n a s).errinfo = s.errinfo := rfl
@[simp] theorem hostRead_ecmd (n : Nat) (a : BitVec 20) (s : State) : (hostRead n a s).ecmd = s.ecmd := rfl
@[simp] theorem hostRead_sst (n : Nat) (a : BitVec 20) (s : State) : (hostRead n a s).sst = s.sst := rfl
@[simp] theorem hostRead_spc (n : Nat) (a : BitVec 20) (s : State) : (hostRead n a s).spc = s.spc := rfl
@[simp] theorem hostRead_sdir (n : Nat) (a : BitVec 20) (s : State) : (hostRead n a s).sdir = s.sdir := rfl
@[simp] theorem hostRead_plen (n : Nat) (a : BitVec 20) (s : State) : (hostRead n a s).plen = s.plen := rfl
@[simp] theorem hostRead_pcfg (n : Nat) (a : BitVec 20) (s : State) : (hostRead n a s).pcfg = s.pcfg := rfl
@[simp] theorem hostRead_pslot (n : Nat) (a : BitVec 20) (s : State) : (hostRead n a s).pslot = s.pslot := rfl
@[simp] theorem hostRead_work (n : Nat) (a : BitVec 20) (s : State) : (hostRead n a s).work = s.work := rfl
@[simp] theorem hostRead_events (n : Nat) (a : BitVec 20) (s : State) : (hostRead n a s).events = s.events := rfl
@[simp] theorem hostRead_reply (n : Nat) (a : BitVec 20) (s : State) : (hostRead n a s).reply = some (readReply n a s) := rfl

@[simp] theorem slot_setBuf (b : BitVec 2) (v : Bytes) (s : State) (j : BitVec 3) : slot (setBuf b v s) j = slot s j := rfl
@[simp] theorem stageTag_setBuf (b : BitVec 2) (v : Bytes) (s : State) (j : BitVec 4) : stageTag (setBuf b v s) j = stageTag s j := rfl
@[simp] theorem stageSlot_setBuf (b : BitVec 2) (v : Bytes) (s : State) (j : BitVec 4) : stageSlot (setBuf b v s) j = stageSlot s j := rfl
@[simp] theorem buf_setKey (k : BitVec 3) (v : Bytes) (s : State) (c : BitVec 2) : buf (setKey k v s) c = buf s c := rfl
@[simp] theorem stageTag_setKey (k : BitVec 3) (v : Bytes) (s : State) (j : BitVec 4) : stageTag (setKey k v s) j = stageTag s j := rfl
@[simp] theorem stageSlot_setKey (k : BitVec 3) (v : Bytes) (s : State) (j : BitVec 4) : stageSlot (setKey k v s) j = stageSlot s j := rfl
@[simp] theorem buf_setIv (k : BitVec 3) (v : Bytes) (s : State) (c : BitVec 2) : buf (setIv k v s) c = buf s c := rfl
@[simp] theorem stageTag_setIv (k : BitVec 3) (v : Bytes) (s : State) (j : BitVec 4) : stageTag (setIv k v s) j = stageTag s j := rfl
@[simp] theorem stageSlot_setIv (k : BitVec 3) (v : Bytes) (s : State) (j : BitVec 4) : stageSlot (setIv k v s) j = stageSlot s j := rfl
@[simp] theorem buf_setStageTag (i : BitVec 4) (t : Byte) (s : State) (c : BitVec 2) : buf (setStageTag i t s) c = buf s c := rfl
@[simp] theorem slot_setStageTag (i : BitVec 4) (t : Byte) (s : State) (j : BitVec 3) : slot (setStageTag i t s) j = slot s j := rfl
@[simp] theorem stageSlot_setStageTag (i : BitVec 4) (t : Byte) (s : State) (j : BitVec 4) : stageSlot (setStageTag i t s) j = stageSlot s j := rfl
@[simp] theorem buf_setStageSlot (i : BitVec 4) (k : BitVec 3) (s : State) (c : BitVec 2) : buf (setStageSlot i k s) c = buf s c := rfl
@[simp] theorem slot_setStageSlot (i : BitVec 4) (k : BitVec 3) (s : State) (j : BitVec 3) : slot (setStageSlot i k s) j = slot s j := rfl
@[simp] theorem stageTag_setStageSlot (i : BitVec 4) (k : BitVec 3) (s : State) (j : BitVec 4) : stageTag (setStageSlot i k s) j = stageTag s j := rfl
@[simp] theorem buf_complete (s : State) (c : BitVec 2) : buf (complete s) c = buf s c := rfl
@[simp] theorem slot_complete (s : State) (j : BitVec 3) : slot (complete s) j = slot s j := rfl
@[simp] theorem stageTag_complete (s : State) (j : BitVec 4) : stageTag (complete s) j = stageTag s j := rfl
@[simp] theorem stageSlot_complete (s : State) (j : BitVec 4) : stageSlot (complete s) j = stageSlot s j := rfl
@[simp] theorem buf_clearFault (s : State) (c : BitVec 2) : buf (clearFault s) c = buf s c := rfl
@[simp] theorem slot_clearFault (s : State) (j : BitVec 3) : slot (clearFault s) j = slot s j := rfl
@[simp] theorem stageTag_clearFault (s : State) (j : BitVec 4) : stageTag (clearFault s) j = stageTag s j := rfl
@[simp] theorem stageSlot_clearFault (s : State) (j : BitVec 4) : stageSlot (clearFault s) j = stageSlot s j := rfl
@[simp] theorem buf_takeFault (r : Raise) (g : Option (BitVec 5)) (s : State) (c : BitVec 2) : buf (takeFault r g s) c = buf s c := rfl
@[simp] theorem slot_takeFault (r : Raise) (g : Option (BitVec 5)) (s : State) (j : BitVec 3) : slot (takeFault r g s) j = slot s j := rfl
@[simp] theorem stageTag_takeFault (r : Raise) (g : Option (BitVec 5)) (s : State) (j : BitVec 4) : stageTag (takeFault r g s) j = stageTag s j := rfl
@[simp] theorem stageSlot_takeFault (r : Raise) (g : Option (BitVec 5)) (s : State) (j : BitVec 4) : stageSlot (takeFault r g s) j = stageSlot s j := rfl
@[simp] theorem buf_issue (v : Word) (s : State) (c : BitVec 2) : buf (issue v s) c = buf s c := rfl
@[simp] theorem slot_issue (v : Word) (s : State) (j : BitVec 3) : slot (issue v s) j = slot s j := rfl
@[simp] theorem stageTag_issue (v : Word) (s : State) (j : BitVec 4) : stageTag (issue v s) j = stageTag s j := rfl
@[simp] theorem stageSlot_issue (v : Word) (s : State) (j : BitVec 4) : stageSlot (issue v s) j = stageSlot s j := rfl
@[simp] theorem buf_dropWrite (s : State) (c : BitVec 2) : buf (dropWrite s) c = buf s c := rfl
@[simp] theorem slot_dropWrite (s : State) (j : BitVec 3) : slot (dropWrite s) j = slot s j := rfl
@[simp] theorem stageTag_dropWrite (s : State) (j : BitVec 4) : stageTag (dropWrite s) j = stageTag s j := rfl
@[simp] theorem stageSlot_dropWrite (s : State) (j : BitVec 4) : stageSlot (dropWrite s) j = stageSlot s j := rfl
@[simp] theorem buf_hostRead (n : Nat) (a : BitVec 20) (s : State) (c : BitVec 2) : buf (hostRead n a s) c = buf s c := rfl
@[simp] theorem slot_hostRead (n : Nat) (a : BitVec 20) (s : State) (j : BitVec 3) : slot (hostRead n a s) j = slot s j := rfl
@[simp] theorem stageTag_hostRead (n : Nat) (a : BitVec 20) (s : State) (j : BitVec 4) : stageTag (hostRead n a s) j = stageTag s j := rfl
@[simp] theorem stageSlot_hostRead (n : Nat) (a : BitVec 20) (s : State) (j : BitVec 4) : stageSlot (hostRead n a s) j = stageSlot s j := rfl

theorem toNat_ne_of_ne {n : Nat} {a b : BitVec n} (h : a ≠ b) : b.toNat ≠ a.toNat :=
  fun e => h (BitVec.eq_of_toNat_eq e).symm

@[simp] theorem buf_setBuf_self (b : BitVec 2) (v : Bytes) (s : State) : buf (setBuf b v s) b = v := by
  simp [buf]

@[simp] theorem buf_setBuf_of_ne {b c : BitVec 2} (v : Bytes) (s : State) (h : c ≠ b) :
    buf (setBuf b v s) c = buf s c := by
  simp [buf, toNat_ne_of_ne h]

@[simp] theorem slot_setKey_self (k : BitVec 3) (v : Bytes) (s : State) :
    slot (setKey k v s) k = { slot s k with key := v } := by
  simp [slot]

@[simp] theorem slot_setKey_of_ne {k j : BitVec 3} (v : Bytes) (s : State) (h : j ≠ k) :
    slot (setKey k v s) j = slot s j := by
  simp [slot, toNat_ne_of_ne h]

@[simp] theorem slot_setIv_self (k : BitVec 3) (v : Bytes) (s : State) :
    slot (setIv k v s) k = { slot s k with iv := v } := by
  simp [slot]

@[simp] theorem slot_setIv_of_ne {k j : BitVec 3} (v : Bytes) (s : State) (h : j ≠ k) :
    slot (setIv k v s) j = slot s j := by
  simp [slot, toNat_ne_of_ne h]

@[simp] theorem stageTag_setStageTag_self (i : BitVec 4) (t : Byte) (s : State) :
    stageTag (setStageTag i t s) i = t := by
  simp [stageTag]

@[simp] theorem stageTag_setStageTag_of_ne {i j : BitVec 4} (t : Byte) (s : State) (h : j ≠ i) :
    stageTag (setStageTag i t s) j = stageTag s j := by
  simp [stageTag, toNat_ne_of_ne h]

@[simp] theorem stageSlot_setStageSlot_self (i : BitVec 4) (k : BitVec 3) (s : State) :
    stageSlot (setStageSlot i k s) i = k := by
  simp [stageSlot]

@[simp] theorem stageSlot_setStageSlot_of_ne {i j : BitVec 4} (k : BitVec 3) (s : State) (h : j ≠ i) :
    stageSlot (setStageSlot i k s) j = stageSlot s j := by
  simp [stageSlot, toNat_ne_of_ne h]

/-- A buffer after a write to buffer `b`. -/
theorem buf_setBuf (b c : BitVec 2) (v : Bytes) (s : State) :
    buf (setBuf b v s) c = if c = b then v else buf s c := by
  split
  · subst c; simp
  · exact buf_setBuf_of_ne v s ‹_›

/-- A slot after a write to the key of slot `k`. -/
theorem slot_setKey (k j : BitVec 3) (v : Bytes) (s : State) :
    slot (setKey k v s) j = if j = k then { slot s k with key := v } else slot s j := by
  split
  · subst j; simp
  · exact slot_setKey_of_ne v s ‹_›

/-- A slot after a write to the IV of slot `k`. -/
theorem slot_setIv (k j : BitVec 3) (v : Bytes) (s : State) :
    slot (setIv k v s) j = if j = k then { slot s k with iv := v } else slot s j := by
  split
  · subst j; simp
  · exact slot_setIv_of_ne v s ‹_›

/-- Every buffer is empty after reset (R41). -/
@[simp] theorem buf_resetWith (cfg : Config) (b : BitVec 2) : buf (State.resetWith cfg) b = [] := by
  simp [buf, State.resetWith]

/-- Every key slot is empty after reset (R41). -/
@[simp] theorem slot_resetWith (cfg : Config) (k : BitVec 3) : slot (State.resetWith cfg) k = ⟨[], []⟩ := by
  simp [slot, State.resetWith]

end Sys2Proof.Machine
end

