-- ==== Sys2Proof/Laws/Ops.lean ====
section
/-! SUPPORT. What the shared operations can do, said once: how a command ends, what a commit and a fault leave, and that
the host's writes keep a buffer within `CAP`. -/

namespace Sys2Proof.Machine

@[simp] theorem retire_ok (s t : State) : retire s (.ok t) = .next (complete t) := rfl

@[simp] theorem retire_error (s : State) (e : Raise) : retire s (.error e) = .next (takeFault e none s) := rfl

@[simp] theorem retireBuf_ok (rd : BitVec 2) (s : State) (v : Bytes) :
    retireBuf rd s (.ok v) = .next (complete (setBuf rd v s)) := rfl

@[simp] theorem retireBuf_error (rd : BitVec 2) (s : State) (e : Raise) :
    retireBuf rd s (.error e) = .next (takeFault e none s) := rfl

/-- A command that ends answers a next state: its commit, or the entry of the fault it raised. -/
theorem retire_next {s t : State} {r : Except Raise State} (h : retire s r = .next t) :
    (∃ u, r = .ok u ∧ t = complete u) ∨ (∃ e, r = .error e ∧ t = takeFault e none s) := by
  cases r with
  | ok u => exact .inl ⟨u, rfl, by simpa using h.symm⟩
  | error e => exact .inr ⟨e, rfl, by simpa using h.symm⟩

/-- The same of a command with one result, in buffer `rd`. -/
theorem retireBuf_next {rd : BitVec 2} {s t : State} {r : Except Raise Bytes} (h : retireBuf rd s r = .next t) :
    (∃ v, r = .ok v ∧ t = complete (setBuf rd v s)) ∨ (∃ e, r = .error e ∧ t = takeFault e none s) := by
  cases r with
  | ok v => exact .inl ⟨v, rfl, by simpa using h.symm⟩
  | error e => exact .inr ⟨e, rfl, by simpa using h.symm⟩

/-- A command that ends never stops the machine. -/
theorem retire_answers (s : State) (r : Except Raise State) : ∃ t, retire s r = .next t := by
  cases r <;> exact ⟨_, rfl⟩

theorem retireBuf_answers (rd : BitVec 2) (s : State) (r : Except Raise Bytes) : ∃ t, retireBuf rd s r = .next t := by
  cases r <;> exact ⟨_, rfl⟩

/-- A commit sets the standard flags, of the state it commits from. -/
theorem completed_complete {s t : State} (h : t.status = s.status) : Completed s (complete t) := by
  simp [Completed, statusCompleted, h]

/-- A commit of one buffer changes nothing but `STATUS` and that buffer. -/
theorem onlyBuf_complete_setBuf (rd : BitVec 2) (v : Bytes) (s : State) :
    OnlyBuf rd s (complete (setBuf rd v s)) where
  control := ⟨rfl, rfl, rfl, rfl, rfl, rfl, rfl, rfl, rfl, rfl, rfl, rfl, rfl, rfl⟩
  bufs b h := by simp [h]
  slots _ := rfl
  md := rfl

/-- A commit of one key changes nothing but `STATUS` and that key. -/
theorem onlyKey_complete_setKey (kd : BitVec 3) (v : Bytes) (s : State) :
    OnlyKey kd s (complete (setKey kd v s)) where
  control := ⟨rfl, rfl, rfl, rfl, rfl, rfl, rfl, rfl, rfl, rfl, rfl, rfl, rfl, rfl⟩
  bufs _ := rfl
  iv := by simp
  slots k h := by simp [h]
  md := rfl

/-- A commit of one IV changes nothing but `STATUS` and that IV. -/
theorem onlyIv_complete_setIv (kd : BitVec 3) (v : Bytes) (s : State) :
    OnlyIv kd s (complete (setIv kd v s)) where
  control := ⟨rfl, rfl, rfl, rfl, rfl, rfl, rfl, rfl, rfl, rfl, rfl, rfl, rfl, rfl⟩
  bufs _ := rfl
  key := by simp
  slots k h := by simp [h]
  md := rfl

/-- A commit of nothing changes nothing but `STATUS`. -/
theorem onlyStatus_complete (s : State) : OnlyStatus s (complete s) where
  control := ⟨rfl, rfl, rfl, rfl, rfl, rfl, rfl, rfl, rfl, rfl, rfl, rfl, rfl, rfl⟩
  bufs _ := rfl
  slots _ := rfl
  md := rfl

/-- Fault entry leaves all data as it was, whatever stage raised it (R365). -/
theorem faultEntry_takeFault (r : Raise) (g : Option (BitVec 5)) (s : State) :
    FaultEntry (raiseCode r) (errinfoWord (raiseInfo r) g) s (takeFault r g s) where
  status := rfl
  errinfo := rfl
  ecmd := rfl
  sst := rfl
  data := ⟨rfl, fun _ => rfl, fun _ => rfl, rfl, rfl, rfl, rfl, rfl, rfl, rfl, rfl⟩

/-- The fault of a command outside the pipeline. -/
theorem commandFault_takeFault (r : Raise) (s : State) :
    CommandFault (raiseCode r) (raiseInfo r) s (takeFault r none s) :=
  ⟨faultEntry_takeFault r none s, rfl, rfl⟩

/-- Every fault code is one of 1..8 (R361). -/
theorem raiseCode_range (r : Raise) : 1 ≤ (raiseCode r).toNat ∧ (raiseCode r).toNat ≤ 8 := by
  cases r <;> simp [raiseCode]

@[simp] theorem length_windowWrite (v : Word) (o : Nat) (x : Bytes) : (windowWrite v o x).length = x.length := by
  simp [windowWrite]

/-- A `BLEN` write never makes a buffer longer than `CAP` (R22, R66). -/
theorem length_resizeBuf_le {cap : Nat} (n : Nat) {x : Bytes} (h : x.length ≤ cap) :
    (resizeBuf cap n x).length ≤ cap := by
  unfold resizeBuf
  split
  · exact h
  · simp only [List.length_append, List.length_take, List.length_replicate]; omega

/-- A `BLEN` write of an allowed length gives the buffer that length (R66). -/
theorem length_resizeBuf {cap n : Nat} (x : Bytes) (h : n ≤ cap) : (resizeBuf cap n x).length = n := by
  unfold resizeBuf
  rw [if_neg (by omega)]
  simp only [List.length_append, List.length_take, List.length_replicate]; omega

end Sys2Proof.Machine
end

