-- ==== Sys2Proof/Laws/PerInstr.lean ====
section
/-! SUPPORT. Statements made once per instruction: an ill-formed term has no word the decoder accepts (30_encoding.md
R96 (e)). -/

namespace Sys2Proof.Laws

/-- The word the encoder writes for an ill-formed term is refused, because of its modifier (R96 (e)). -/
def IllFormedRefused.Statement (i : Instr) : Prop :=
  i.wf = false → ∃ w, encode i = .command w ∧ decode w = .error .imm

theorem IllFormedRefused.of_wf {i : Instr} (h : i.wf = true) : IllFormedRefused.Statement i :=
  fun hf => by rw [h] at hf; cases hf

theorem IllFormedRefused.nop : IllFormedRefused.Statement Instr.nop :=
  of_wf rfl

theorem IllFormedRefused.errclr : IllFormedRefused.Statement Instr.errclr :=
  of_wf rfl

theorem IllFormedRefused.bclr (rd : BitVec 2) : IllFormedRefused.Statement (Instr.bclr rd) :=
  of_wf rfl

theorem IllFormedRefused.bcpy (rd : BitVec 2) (ra : BitVec 2) : IllFormedRefused.Statement (Instr.bcpy rd ra) :=
  of_wf rfl

theorem IllFormedRefused.bcat (rd : BitVec 2) (ra : BitVec 2) : IllFormedRefused.Statement (Instr.bcat rd ra) :=
  of_wf rfl

theorem IllFormedRefused.ksetk (kd : BitVec 3) (ra : BitVec 2) : IllFormedRefused.Statement (Instr.ksetk kd ra) :=
  of_wf rfl

theorem IllFormedRefused.ksetiv (kd : BitVec 3) (ra : BitVec 2) : IllFormedRefused.Statement (Instr.ksetiv kd ra) :=
  of_wf rfl

theorem IllFormedRefused.b64enc (rd : BitVec 2) (ra : BitVec 2) (u : Bool) : IllFormedRefused.Statement (Instr.b64enc rd ra u) :=
  of_wf rfl

theorem IllFormedRefused.b64dec (rd : BitVec 2) (ra : BitVec 2) (u : Bool) : IllFormedRefused.Statement (Instr.b64dec rd ra u) :=
  of_wf rfl

theorem IllFormedRefused.u8chk (ra : BitVec 2) : IllFormedRefused.Statement (Instr.u8chk ra) :=
  of_wf rfl

theorem IllFormedRefused.md5init : IllFormedRefused.Statement Instr.md5init :=
  of_wf rfl

theorem IllFormedRefused.md5upd (ra : BitVec 2) : IllFormedRefused.Statement (Instr.md5upd ra) :=
  of_wf rfl

theorem IllFormedRefused.md5fin (rd : BitVec 2) (fmt : BitVec 2) : IllFormedRefused.Statement (Instr.md5fin rd fmt) := by
  intro h
  have hm : fmt = 3#2 := by simpa [Instr.wf] using h
  subst hm
  exact ⟨_, rfl, by simp [decode, fieldsOf_wordOf, decodeFields, formatDM, bind, Except.bind]⟩

theorem IllFormedRefused.md5 (rd : BitVec 2) (ra : BitVec 2) (fmt : BitVec 2) : IllFormedRefused.Statement (Instr.md5 rd ra fmt) := by
  intro h
  have hm : fmt = 3#2 := by simpa [Instr.wf] using h
  subst hm
  exact ⟨_, rfl, by simp [decode, fieldsOf_wordOf, decodeFields, formatDSMSelector, bind, Except.bind]⟩

theorem IllFormedRefused.hmac (rd : BitVec 2) (ra : BitVec 2) (rb : BitVec 2) (fmt : BitVec 2) : IllFormedRefused.Statement (Instr.hmac rd ra rb fmt) := by
  intro h
  have hm : fmt = 3#2 := by simpa [Instr.wf] using h
  subst hm
  exact ⟨_, rfl, by simp [decode, fieldsOf_wordOf, decodeFields, formatDST, bind, Except.bind]⟩

theorem IllFormedRefused.desenc (rd : BitVec 2) (ra : BitVec 2) (k : BitVec 3) : IllFormedRefused.Statement (Instr.desenc rd ra k) :=
  of_wf rfl

theorem IllFormedRefused.desdec (rd : BitVec 2) (ra : BitVec 2) (k : BitVec 3) : IllFormedRefused.Statement (Instr.desdec rd ra k) :=
  of_wf rfl

theorem IllFormedRefused.tdesenc (rd : BitVec 2) (ra : BitVec 2) (k : BitVec 3) : IllFormedRefused.Statement (Instr.tdesenc rd ra k) :=
  of_wf rfl

theorem IllFormedRefused.tdesdec (rd : BitVec 2) (ra : BitVec 2) (k : BitVec 3) : IllFormedRefused.Statement (Instr.tdesdec rd ra k) :=
  of_wf rfl

theorem IllFormedRefused.aesenc (rd : BitVec 2) (ra : BitVec 2) (k : BitVec 3) : IllFormedRefused.Statement (Instr.aesenc rd ra k) :=
  of_wf rfl

theorem IllFormedRefused.aesdec (rd : BitVec 2) (ra : BitVec 2) (k : BitVec 3) : IllFormedRefused.Statement (Instr.aesdec rd ra k) :=
  of_wf rfl

theorem IllFormedRefused.cbcenc (rd : BitVec 2) (ra : BitVec 2) (k : BitVec 3) (c : BitVec 2) : IllFormedRefused.Statement (Instr.cbcenc rd ra k c) := by
  intro h
  have hm : c = 3#2 := by simpa [Instr.wf] using h
  subst hm
  exact ⟨_, rfl, by simp [decode, fieldsOf_wordOf, decodeFields, formatDSKM, bind, Except.bind]⟩

theorem IllFormedRefused.cbcdec (rd : BitVec 2) (ra : BitVec 2) (k : BitVec 3) (c : BitVec 2) : IllFormedRefused.Statement (Instr.cbcdec rd ra k c) := by
  intro h
  have hm : c = 3#2 := by simpa [Instr.wf] using h
  subst hm
  exact ⟨_, rfl, by simp [decode, fieldsOf_wordOf, decodeFields, formatDSKM, bind, Except.bind]⟩

theorem IllFormedRefused.kdfk (kd : BitVec 3) (ra : BitVec 2) (off : BitVec 6) (len : BitVec 6) : IllFormedRefused.Statement (Instr.kdfk kd ra off len) :=
  of_wf rfl

theorem IllFormedRefused.kdfiv (kd : BitVec 3) (ra : BitVec 2) (off : BitVec 6) (len : BitVec 6) : IllFormedRefused.Statement (Instr.kdfiv kd ra off len) :=
  of_wf rfl

theorem IllFormedRefused.penc (rd : BitVec 2) (ra : BitVec 2) : IllFormedRefused.Statement (Instr.penc rd ra) :=
  of_wf rfl

theorem IllFormedRefused.pdec (rd : BitVec 2) (ra : BitVec 2) (u : Bool) (r : Bool) : IllFormedRefused.Statement (Instr.pdec rd ra u r) :=
  of_wf rfl

theorem IllFormedRefused.tag1 : IllFormedRefused.Statement Instr.tag1 :=
  of_wf rfl

theorem IllFormedRefused.tag2 : IllFormedRefused.Statement Instr.tag2 :=
  of_wf rfl

theorem IllFormedRefused.tag3 : IllFormedRefused.Statement Instr.tag3 :=
  of_wf rfl

end Sys2Proof.Laws
end

