-- ==== Sys2Proof/Laws/Units.lean ====
section
/-! SUPPORT. The lengths of the units' results: what keeps every buffer, key slot and the working string within its
capacity (10_state.md R22, R23). -/

namespace Sys2Proof.Machine

@[simp] theorem length_xorBytes (x y : Bytes) : (xorBytes x y).length = min x.length y.length := by
  simp [xorBytes]

@[simp] theorem length_slice (x : Bytes) (a n : Nat) : (slice x a n).length = min n (x.length - a) := by
  simp [slice]

@[simp] theorem length_bytesLe32 (w : Word) : (bytesLe32 w).length = 4 := rfl

@[simp] theorem length_bytesLe64 (v : BitVec 64) : (bytesLe64 v).length = 8 := rfl

@[simp] theorem length_md5Digest (h : Accum) : (md5Digest h).length = 16 := rfl

@[simp] theorem length_md5Finish (ctx : Md5Ctx) : (md5Finish ctx).length = 16 := rfl

@[simp] theorem length_md5Sum (x : Bytes) : (md5Sum x).length = 16 := rfl

@[simp] theorem length_hmacMd5 (k m : Bytes) : (hmacMd5 k m).length = 16 := rfl

@[simp] theorem length_hexText (upper : Bool) (d : Bytes) : (hexText upper d).length = 2 * d.length := by
  induction d with
  | nil => rfl
  | cons b d ih => simp [hexText] at ih ⊢; omega

/-- Base64 text is never longer than its padded length (R141). -/
theorem length_b64enc_le (pad : Bool) (x : Bytes) : (b64enc pad x).length ≤ b64Len x.length := by
  induction x using b64enc.induct with
  | case1 => simp [b64enc]
  | case2 => cases pad <;> simp [b64enc, b64Head, b64Len]
  | case3 => cases pad <;> simp [b64enc, b64Head, b64Len]
  | case4 x0 x1 x2 rest ih => simp [b64enc, b64Head, b64Len] at ih ⊢; omega

/-- A rendered digest is at most 32 bytes (R170). -/
theorem length_render_le (c : Ctrl) (f : DigestFormat) {d : Bytes} (h : d.length = 16) :
    (render c f d).length ≤ 32 := by
  cases f with
  | raw => simp [render, h]
  | hex => simp [render, h]
  | b64 =>
    have := length_b64enc_le c.b64Pad d
    simp only [render, h, b64Len] at this ⊢
    omega

theorem length_b64Strip_le (t : Bytes) : (b64Strip t).length ≤ t.length := by
  induction t with
  | nil => simp [b64Strip]
  | cons b t ih =>
    simp only [b64Strip]
    split
    · simp
    · split <;> simp <;> omega

theorem length_b64Bytes_le (acc : BitVec 24) (nb : Nat) (v : List (BitVec 6)) :
    (b64Bytes acc nb v).length ≤ v.length := by
  induction v generalizing acc nb with
  | nil => simp [b64Bytes]
  | cons x v ih =>
    simp only [b64Bytes]
    split
    · simpa using ih _ _
    · exact Nat.le_trans (ih _ _) (by simp)

/-- Decoding never makes a text longer (R143). -/
theorem length_b64dec_le (t : Bytes) : (b64dec t).length ≤ t.length :=
  Nat.le_trans (length_b64Bytes_le _ _ _) (length_b64Strip_le t)

@[simp] theorem length_permute (table : List Nat) (x : Bits) : (permute table x).length = table.length := by
  simp [permute]

theorem length_bytesOfBits (x : Bits) : (bytesOfBits x).length = x.length / 8 := by
  induction x using bytesOfBits.induct with
  | case1 b7 b6 b5 b4 b3 b2 b1 b0 rest ih => simp [bytesOfBits, ih]; omega
  | case2 x h =>
    have hx : x.length < 8 := by
      rcases x with _ | ⟨a, _ | ⟨b, _ | ⟨c, _ | ⟨d, _ | ⟨e, _ | ⟨f, _ | ⟨g, _ | ⟨i, t⟩⟩⟩⟩⟩⟩⟩⟩
      all_goals first | (simp; done) | exact absurd rfl (h _ _ _ _ _ _ _ _ _)
    rw [bytesOfBits.eq_2 x h]
    simp; omega

/-- A DES operation gives 8 bytes. -/
@[simp] theorem length_desCrypt (keys : List Bits) (block : Bytes) : (desCrypt keys block).length = 8 := by
  simp [desCrypt, length_bytesOfBits]; rfl

@[simp] theorem length_desEnc (key block : Bytes) : (desEnc key block).length = 8 := by simp [desEnc]
@[simp] theorem length_desDec (key block : Bytes) : (desDec key block).length = 8 := by simp [desDec]
@[simp] theorem length_tdesEnc (key block : Bytes) : (tdesEnc key block).length = 8 := by simp [tdesEnc]
@[simp] theorem length_tdesDec (key block : Bytes) : (tdesDec key block).length = 8 := by simp [tdesDec]

@[simp] theorem length_aesShiftRows (s : Bytes) : (aesShiftRows s).length = 16 := by simp [aesShiftRows]
@[simp] theorem length_aesInvShiftRows (s : Bytes) : (aesInvShiftRows s).length = 16 := by simp [aesInvShiftRows]
@[simp] theorem length_aesSubBytes (s : Bytes) : (aesSubBytes s).length = s.length := by simp [aesSubBytes]
@[simp] theorem length_aesInvSubBytes (s : Bytes) : (aesInvSubBytes s).length = s.length := by simp [aesInvSubBytes]

/-- The schedule words of a 16-byte key are four bytes each. -/
def aesWordsOk (w : List Bytes) (n : Nat) : Prop :=
  w.length = n ∧ ∀ i, i < n → (w.getD i []).length = 4

theorem aesExpandStep_ok {w : List Bytes} {n : Nat} (h : aesWordsOk w n) (hn : 4 ≤ n) :
    aesWordsOk (aesExpandStep w n) (n + 1) := by
  obtain ⟨hl, hw⟩ := h
  refine ⟨by simp [aesExpandStep, hl], fun i hi => ?_⟩
  rcases Nat.lt_or_ge i n with hin | hin
  · have : i < w.length := by omega
    have := hw i hin
    simp only [List.getD_eq_getElem?_getD] at this ⊢
    rwa [aesExpandStep, List.getElem?_append_left (by omega)]
  · have hi' : i = w.length := by omega
    have h1 := hw (n - 1) (by omega)
    have h4 := hw (n - 4) (by omega)
    subst hi'
    simp only [aesExpandStep, List.getD_eq_getElem?_getD, List.getElem?_concat_length, Option.getD_some,
      length_xorBytes] at h1 h4 ⊢
    rw [h4]
    split <;> simp [aesKeyCore, h1]

theorem aesExpand_ok {key : Bytes} (h : key.length = 16) : aesWordsOk (aesExpand key) 44 := by
  have base : aesWordsOk [slice key 0 4, slice key 4 4, slice key 8 4, slice key 12 4] 4 := by
    refine ⟨rfl, fun i hi => ?_⟩
    rcases i with _ | _ | _ | _ | i <;> first | omega | simp [h]
  have go : ∀ m n w, aesWordsOk w n → 4 ≤ n →
      aesWordsOk ((List.range' n m).foldl aesExpandStep w) (n + m) := by
    intro m
    induction m with
    | zero => intro n w hw _; simpa using hw
    | succ m ih =>
      intro n w hw hn
      have := ih (n + 1) _ (aesExpandStep_ok hw hn) (by omega)
      simpa [List.range'_succ, Nat.add_comm, Nat.add_left_comm] using this
  exact go 40 4 _ base (by omega)

/-- A round key of a 16-byte key is 16 bytes. -/
theorem length_aesRoundKey {key : Bytes} (h : key.length = 16) {r : Nat} (hr : r ≤ 10) :
    (aesRoundKey (aesExpand key) r).length = 16 := by
  have hw := (aesExpand_ok h).2
  simp [-List.getD_eq_getElem?_getD, aesRoundKey, hw (4 * r) (by omega), hw (4 * r + 1) (by omega), hw (4 * r + 2) (by omega),
    hw (4 * r + 3) (by omega)]

theorem length_aesAddRoundKey {key s : Bytes} (h : key.length = 16) {r : Nat} (hr : r ≤ 10) (hs : s.length = 16) :
    (aesAddRoundKey (aesExpand key) r s).length = 16 := by
  simp [aesAddRoundKey, length_aesRoundKey h hr, hs]

/-- An AES encryption of anything under a 16-byte key gives 16 bytes. -/
theorem length_aesEnc {key : Bytes} (h : key.length = 16) (block : Bytes) : (aesEnc key block).length = 16 := by
  simp only [aesEnc]
  exact length_aesAddRoundKey h (by omega) (by simp)

/-- An AES decryption of anything under a 16-byte key gives 16 bytes. -/
theorem length_aesDec {key : Bytes} (h : key.length = 16) (block : Bytes) : (aesDec key block).length = 16 := by
  simp only [aesDec]
  exact length_aesAddRoundKey h (by omega) (by simp)

/-- A block encryption under a key of the cipher's length gives one block (R281). -/
theorem length_blockEnc {c : Cipher} {key : Bytes} (h : key.length = keyLen c) (x : Bytes) :
    (blockEnc c key x).length = blockLen c := by
  cases c with
  | des => simp [blockEnc, blockLen]
  | tdes => simp [blockEnc, blockLen]
  | aes => exact length_aesEnc h x

/-- A block decryption under a key of the cipher's length gives one block (R281). -/
theorem length_blockDec {c : Cipher} {key : Bytes} (h : key.length = keyLen c) (x : Bytes) :
    (blockDec c key x).length = blockLen c := by
  cases c with
  | des => simp [blockDec, blockLen]
  | tdes => simp [blockDec, blockLen]
  | aes => exact length_aesDec h x

theorem blockLen_pos (c : Cipher) : 0 < blockLen c := by cases c <;> decide

/-- The chain of `m` encrypted blocks (R286). -/
theorem length_cbcEncBlocks {enc : Bytes → Bytes} {n : Nat} (h : ∀ x, (enc x).length = n) (m : Nat) (prev q : Bytes) :
    (cbcEncBlocks enc n m prev q).length = m * n := by
  induction m generalizing prev q with
  | zero => simp [cbcEncBlocks]
  | succ m ih => simp [cbcEncBlocks, h, ih]; ring

/-- The chain of `m` decrypted blocks of a ciphertext that has them (R287). -/
theorem length_cbcDecBlocks {dec : Bytes → Bytes} {n : Nat} (h : ∀ x, (dec x).length = n) (m : Nat) (prev ct : Bytes)
    (hp : prev.length = n) (hc : m * n ≤ ct.length) : (cbcDecBlocks dec n m prev ct).length = m * n := by
  induction m generalizing prev ct with
  | zero => simp [cbcDecBlocks]
  | succ m ih =>
    have hn : n ≤ ct.length := le_trans (Nat.le_mul_of_pos_left n (Nat.succ_pos m)) hc
    have : (m + 1) * n = m * n + n := Nat.succ_mul m n
    simp only [cbcDecBlocks, List.length_append, length_xorBytes, h, hp, Nat.min_self]
    rw [ih _ _ (by simp; omega) (by simp; omega)]
    omega

/-- Padding lengthens by `padLen` (R283). -/
@[simp] theorem length_pkcs7Pad (n : Nat) (p : Bytes) : (pkcs7Pad n p).length = p.length + padLen n p.length := by
  simp [pkcs7Pad]

/-- The padded length is a multiple of the block size (R283). -/
theorem padded_mod {n : Nat} (h : 0 < n) (len : Nat) : (len + padLen n len) % n = 0 := by
  have h1 := Nat.mod_lt len h
  have h2 := Nat.div_add_mod len n
  have : len + padLen n len = n * (len / n + 1) := by
    unfold padLen; rw [Nat.mul_add]; omega
  rw [this]; simp

/-- A ciphertext has the padded length (R286). -/
theorem length_cbcEnc {c : Cipher} {k : KeySlot} (h : k.key.length = keyLen c) (p : Bytes) :
    (cbcEnc c k p).length = p.length + padLen (blockLen c) p.length := by
  simp only [cbcEnc]
  rw [length_cbcEncBlocks (fun x => length_blockEnc h x), length_pkcs7Pad]
  exact Nat.div_mul_cancel (Nat.dvd_of_mod_eq_zero (padded_mod (blockLen_pos c) _))

/-- The decrypted blocks are as long as the ciphertext (R287). -/
theorem length_cbcDecRaw {c : Cipher} {k : KeySlot} (hk : k.key.length = keyLen c) (hi : k.iv.length = blockLen c)
    {ct : Bytes} (hc : ct.length % blockLen c = 0) : (cbcDecRaw c k ct).length = ct.length := by
  simp only [cbcDecRaw]
  rw [length_cbcDecBlocks (fun x => length_blockDec hk x) _ _ _ hi (Nat.div_mul_le_self _ _)]
  exact Nat.div_mul_cancel (Nat.dvd_of_mod_eq_zero hc)

theorem length_pkcs7Unpad_le (q : Bytes) : (pkcs7Unpad q).length ≤ q.length := by
  simp only [pkcs7Unpad]
  split <;> simp

/-- Unpadding never lengthens, in either mode (R284, R285). -/
theorem length_cbcDec_le {b : Bool} {c : Cipher} {k : KeySlot} {ct v : Bytes} (h : cbcDec b c k ct = .ok v) :
    v.length ≤ (cbcDecRaw c k ct).length := by
  simp only [cbcDec] at h
  split at h
  · simp only [pkcs7UnpadChecked] at h
    split at h
    · cases h
    · cases h; simp
  · cases h; exact length_pkcs7Unpad_le _

/-- `chk` passes exactly when both lengths are the cipher's (R282). -/
theorem slotChecked_ok {c : Cipher} {k : KeySlot} (h : slotChecked c k = .ok ()) :
    k.key.length = keyLen c ∧ k.iv.length = blockLen c := by
  unfold slotChecked at h
  split at h
  · cases h
  · split at h
    · cases h
    · constructor <;> omega

/-- What a checked encryption that succeeds says (R289): the lengths, and a result of at most `CAP` bytes. -/
theorem cbcEncChecked_ok {cap : Nat} {c : Cipher} {k : KeySlot} {p v : Bytes} (h : cbcEncChecked cap c k p = .ok v) :
    k.key.length = keyLen c ∧ k.iv.length = blockLen c ∧ v = cbcEnc c k p ∧ v.length ≤ cap := by
  unfold cbcEncChecked at h
  rcases hs : slotChecked c k with e | ⟨⟩
  · simp [hs, bind, Except.bind] at h
  · obtain ⟨h1, h2⟩ := slotChecked_ok hs
    simp only [hs, bind, Except.bind] at h
    split at h
    · cases h
    · cases h
      exact ⟨h1, h2, rfl, by rw [length_cbcEnc h1]; omega⟩

/-- What a checked decryption that succeeds says (R290): the lengths, and a result no longer than the ciphertext. -/
theorem cbcDecChecked_ok {b : Bool} {c : Cipher} {k : KeySlot} {ct v : Bytes} (h : cbcDecChecked b c k ct = .ok v) :
    k.key.length = keyLen c ∧ k.iv.length = blockLen c ∧ ct.length ≠ 0 ∧ ct.length % blockLen c = 0 ∧
      cbcDec b c k ct = .ok v ∧ v.length ≤ ct.length := by
  unfold cbcDecChecked at h
  rcases hs : slotChecked c k with e | ⟨⟩
  · simp [hs, bind, Except.bind] at h
  · obtain ⟨h1, h2⟩ := slotChecked_ok hs
    simp only [hs, bind, Except.bind] at h
    split at h
    · cases h
    · rename_i hc
      have hc' : ct.length ≠ 0 ∧ ct.length % blockLen c = 0 := by omega
      refine ⟨h1, h2, hc'.1, hc'.2, h, ?_⟩
      have := length_cbcDec_le h
      rwa [length_cbcDecRaw h1 h2 hc'.2] at this

/-- A checked Base64 encoding that succeeds fits (R146). -/
theorem b64encChecked_ok {cap : Nat} {pad : Bool} {x v : Bytes} (h : b64encChecked cap pad x = .ok v) :
    v = b64enc pad x ∧ b64Len x.length ≤ cap ∧ v.length ≤ cap := by
  unfold b64encChecked at h
  split at h
  · cases h
  · cases h
    have := length_b64enc_le pad x
    exact ⟨rfl, by omega, by omega⟩

/-- The UTF-8 check passes its argument on, or faults (R147). -/
theorem utf8Checked_ok {x v : Bytes} (h : utf8Checked x = .ok v) : v = x ∧ utf8Bad x = none := by
  unfold utf8Checked at h
  split at h
  · cases h
  · cases h; exact ⟨rfl, ‹_›⟩

/-- A stage's result fits in the working string (R322). -/
theorem length_stageEnc_le {cap : Nat} {c : Ctrl} {t : Byte} {k : KeySlot} {x v : Bytes}
    (h : stageEnc cap c t k x = .ok v) : v.length ≤ cap := by
  unfold stageEnc at h
  split at h
  · exact (cbcEncChecked_ok h).2.2.2
  · split at h
    · exact (cbcEncChecked_ok h).2.2.2
    · split at h
      · exact (b64encChecked_ok h).2.2
      · cases h

/-- An inverse stage never lengthens the working string (R323). -/
theorem length_stageDec_le {c : Ctrl} {t : Byte} {k : KeySlot} {x v : Bytes}
    (h : stageDec c t k x = .ok v) : v.length ≤ x.length := by
  unfold stageDec at h
  split at h
  · exact (cbcDecChecked_ok h).2.2.2.2.2
  · split at h
    · exact (cbcDecChecked_ok h).2.2.2.2.2
    · split at h
      · cases h; exact length_b64dec_le x
      · cases h

/-- A derived key or IV fits its slot (R301). -/
theorem kdf_ok {c : Ctrl} {x v : Bytes} {off len : BitVec 6} {cap : Nat} (h : kdf c x off len cap = .ok v) :
    v.length ≤ cap := by
  unfold kdf at h
  split at h
  · cases h
  · cases h; simp; omega

end Sys2Proof.Machine
end

