-- ==== Sys2Proof/Laws/Step.lean ====
section
/-! SUPPORT. What a step can do, said once: the cases of the sequencer's Stage step, of a core step, of a host write and
of an event. -/

namespace Sys2Proof.Machine

/-- A Stage step that answers was ready, and is the one of its direction (R328, R329). -/
theorem stageStep_next {t : Byte} {s s' : State} (h : stageStep t s = .next s') :
    stageReady s = true ∧
      ((s.sdir = .enc ∧ s' = stageStepEnc t s) ∨ (s.sdir = .dec ∧ s' = stageStepDec t s)) := by
  unfold stageStep at h
  split at h
  · rename_i hr
    refine ⟨hr, ?_⟩
    split at h <;> cases h
    · exact .inl ⟨‹_›, rfl⟩
    · exact .inr ⟨‹_›, rfl⟩
  · cases h

/-- When the sequencer has a stage step to take (R328, R329). -/
theorem stageReady_iff (s : State) :
    stageReady s = true ↔
      s.sst = .run ∧ ((s.sdir = .enc ∧ s.spc.toNat < s.plen.toNat) ∨ (s.sdir = .dec ∧ 0 < s.spc.toNat)) := by
  unfold stageReady
  cases s.sst <;> cases s.sdir <;> simp

/-- Encode direction (R328): the stage's result in `W`, or its fault. -/
theorem stageStepEnc_cases (t : Byte) (s : State) :
    (∃ w, stageEnc s.cfg.cap s.ctrl t (stageKey s s.spc) s.work = .ok w ∧
      stageStepEnc t s =
        { s with work := w, spc := s.spc + 1#5, sst := if s.spc + 1#5 = s.plen then .post else .run }) ∨
    (∃ e, stageEnc s.cfg.cap s.ctrl t (stageKey s s.spc) s.work = .error e ∧
      stageStepEnc t s = takeFault e (some s.spc) s) := by
  unfold stageStepEnc
  split <;> rename_i h
  · exact .inl ⟨_, h, rfl⟩
  · exact .inr ⟨_, h, rfl⟩

/-- Decode direction (R329): `SPC` counts down whether or not the stage faults. -/
theorem stageStepDec_cases (t : Byte) (s : State) :
    (∃ w, stageDec s.ctrl t (stageKey s (s.spc - 1#5)) s.work = .ok w ∧
      stageStepDec t s =
        { s with work := w, spc := s.spc - 1#5, sst := if s.spc - 1#5 = 0#5 then .post else .run }) ∨
    (∃ e, stageDec s.ctrl t (stageKey s (s.spc - 1#5)) s.work = .error e ∧
      stageStepDec t s = takeFault e (some (s.spc - 1#5)) { s with spc := s.spc - 1#5 }) := by
  simp only [stageStepDec]
  split <;> rename_i h
  · exact .inl ⟨_, h, rfl⟩
  · exact .inr ⟨_, h, rfl⟩

/-- What the core finds to do, by the state it is in. -/
theorem fetch_cases (s : State) :
    (s.status.busy = false ∧ fetch s = .idle) ∨
    (s.status.busy = true ∧ s.sst ≠ .run ∧ fetch s = fetchCommand s) ∨
    (s.status.busy = true ∧ s.sst = .run ∧ fetch s = fetchTag s) := by
  unfold fetch
  cases s.status.busy <;> cases s.sst <;> simp

/-- A decoded tag is one of the three (R95). -/
theorem decodeTag_ok {t : Byte} {i : Instr} (h : decodeTag t = .ok i) :
    (t = 0x31#8 ∧ i = .tag1) ∨ (t = 0x32#8 ∧ i = .tag2) ∨ (t = 0x33#8 ∧ i = .tag3) := by
  unfold decodeTag at h
  split at h
  · rename_i e; cases h; exact .inl ⟨BitVec.eq_of_toNat_eq (by simpa using e), rfl⟩
  · rename_i e; cases h; exact .inr (.inl ⟨BitVec.eq_of_toNat_eq (by simpa using e), rfl⟩)
  · rename_i e; cases h; exact .inr (.inr ⟨BitVec.eq_of_toNat_eq (by simpa using e), rfl⟩)
  · cases h

/-- A core step: nothing while not busy; in `RUN` the Stage step of the tag reached; else the command in `CW`, or the
fault of an illegal word (R72, R96, R120, R327). -/
theorem coreStep_cases (s : State) :
    (s.status.busy = false ∧ coreStep s = .next s) ∨
    (s.status.busy = true ∧ s.sst ≠ .run ∧ ∃ i, decode s.cw = .ok i ∧ coreStep s = exec i s) ∨
    (s.status.busy = true ∧ s.sst ≠ .run ∧ (∃ e, decode s.cw = .error e) ∧
      coreStep s = .next (takeFault .illegal none s)) ∨
    (s.status.busy = true ∧ s.sst = .run ∧
      coreStep s = stageStep (stageTag s (stageIndex (nextStage s))) s) := by
  rcases fetch_cases s with ⟨hb, hf⟩ | ⟨hb, hs, hf⟩ | ⟨hb, hs, hf⟩
  · exact .inl ⟨hb, by simp [coreStep, hf]⟩
  · right
    cases hd : decode s.cw with
    | ok i => exact .inl ⟨hb, hs, i, rfl, by simp [coreStep, hf, fetchCommand, hd]⟩
    | error e => exact .inr (.inl ⟨hb, hs, ⟨e, rfl⟩, by simp [coreStep, hf, fetchCommand, hd]⟩)
  · refine .inr (.inr (.inr ⟨hb, hs, ?_⟩))
    cases hd : decodeTag (stageTag s (stageIndex (nextStage s))) with
    | error e => simp [coreStep, hf, fetchTag, hd]
    | ok i =>
      simp only [coreStep, hf, fetchTag, hd]
      rcases decodeTag_ok hd with ⟨ht, rfl⟩ | ⟨ht, rfl⟩ | ⟨ht, rfl⟩ <;> rw [ht] <;> rfl

/-- A write at a mapped place (R69, R70, R402): a reset, a dropped write, or the register's own write. -/
theorem writeMapped_cases (v : Word) (r : HostReg) (s : State) :
    (r = .ctrl ∧ v.getLsbD 0 = true ∧ writeMapped v r s = resetBlock s) ∨
    (s.status.busy = true ∧ writeMapped v r s = dropWrite s) ∨
    (s.status.busy = false ∧ writeMapped v r s = writeReg v s r) := by
  unfold writeMapped
  split
  · rename_i h; exact .inl ⟨h.1, h.2, rfl⟩
  · split
    · rename_i h; exact .inr (.inl ⟨h, rfl⟩)
    · rename_i h; exact .inr (.inr ⟨by simpa using h, rfl⟩)

/-- An event: the core's turn, a transaction that leaves a reply, or the reset input (R72). -/
theorem step_cases (s : State) :
    (s.events = [] ∧ step s = coreStep s) ∨
    (∃ rest, s.events = .core :: rest ∧ step s = coreStep { s with events := rest }) ∨
    (∃ width addr rest, s.events = .read width addr :: rest ∧
      step s = .next (hostRead width addr { s with events := rest })) ∨
    (∃ width addr v rest, s.events = .write width addr v :: rest ∧
      step s = .next (hostWrite width addr v { s with events := rest })) ∨
    (∃ rest, s.events = .hardReset :: rest ∧ step s = .next (resetBlock { s with events := rest })) := by
  unfold step
  rcases s.events with _ | ⟨e, rest⟩
  · simp
  · cases e <;> simp

end Sys2Proof.Machine
end

