-- ==== Sys2Proof/Tests/Slice0.lean ====
section
/-! SUPPORT. Tests: the smoke tests of `Instr.wf`, words written out from the spec's encoding (V96), known answers of the
spec's vectors, one step each on a small state, and for every statement of Certificates/Slice0 that has hypotheses or
clauses a state that meets them (`test_witness_…`). -/

namespace Sys2Proof.Tests

open Sys2Proof.Machine

set_option maxRecDepth 100000
set_option Elab.async false

/-! ### Ill-formed terms: one per check of `Instr.wf` -/

theorem test_wf_refuses_md5fin_format : (Instr.md5fin 1 3).wf = false := by decide
theorem test_wf_refuses_md5_format : (Instr.md5 1 0 3).wf = false := by decide
theorem test_wf_refuses_hmac_format : (Instr.hmac 2 0 1 3).wf = false := by decide
theorem test_wf_refuses_cbcenc_cipher : (Instr.cbcenc 1 0 3 3).wf = false := by decide
theorem test_wf_refuses_cbcdec_cipher : (Instr.cbcdec 2 1 3 3).wf = false := by decide

/-! ### Decoding: the table of V96 (96_vectors_host_and_data.md) -/

theorem test_decode_system_and_buffers :
    [0x00000000#32, 0x01000000#32, 0x08300000#32, 0x09120000#32, 0x0A300000#32, 0x0C730000#32, 0x0D510000#32].map decode =
      [.ok .nop, .ok .errclr, .ok (.bclr 3), .ok (.bcpy 1 2), .ok (.bcat 3 0), .ok (.ksetk 7 3), .ok (.ksetiv 5 1)] := by
  decide

theorem test_decode_base64_and_md5 :
    [0x10100001#32, 0x11210001#32, 0x12020000#32, 0x20000000#32, 0x21030000#32, 0x22200002#32, 0x23100001#32,
      0x24201001#32].map decode =
      [.ok (.b64enc 1 0 true), .ok (.b64dec 2 1 true), .ok (.u8chk 2), .ok .md5init, .ok (.md5upd 3), .ok (.md5fin 2 2),
        .ok (.md5 1 0 1), .ok (.hmac 2 0 1 1)] := by decide

theorem test_decode_ciphers :
    [0x30107000#32, 0x31107000#32, 0x32002000#32, 0x33332000#32, 0x40100000#32, 0x41100000#32, 0x50103002#32,
      0x51213000#32].map decode =
      [.ok (.desenc 1 0 7), .ok (.desdec 1 0 7), .ok (.tdesenc 0 0 2), .ok (.tdesdec 3 3 2), .ok (.aesenc 1 0 0),
        .ok (.aesdec 1 0 0), .ok (.cbcenc 1 0 3 2), .ok (.cbcdec 2 1 3 0)] := by decide

theorem test_decode_kdf_and_sequencer :
    [0x60020208#32, 0x61730608#32, 0x70100000#32, 0x71210003#32].map decode =
      [.ok (.kdfk 0 2 8 8), .ok (.kdfiv 7 3 24 8), .ok (.penc 1 0), .ok (.pdec 2 1 true true)] := by decide

/-- The one-bit neighbours of V96, with the check that fails. -/
theorem test_decode_illegal_neighbours :
    [0x00010000#32, 0x01000800#32, 0x08B00000#32, 0x09121000#32, 0x0A340000#32, 0x0CF30000#32, 0x0D510001#32,
      0x10100003#32, 0x11218001#32, 0x12120000#32, 0x20100000#32, 0x21030001#32, 0x22200003#32, 0x23100005#32,
      0x24205001#32, 0x3010F000#32, 0x31107800#32, 0x32402000#32, 0x33372000#32, 0x40100001#32, 0x41900000#32,
      0x50103003#32, 0x51213004#32, 0x60028208#32, 0x61F30608#32, 0x70100001#32, 0x71210007#32].map decode =
      [.error .ra, .error .imm, .error .rd, .error .rb, .error .ra, .error .rd, .error .imm, .error .imm, .error .rb,
        .error .rd, .error .rd, .error .imm, .error .imm, .error .imm, .error .rb, .error .rb, .error .imm, .error .rd,
        .error .ra, .error .imm, .error .rd, .error .imm, .error .imm, .error .rb, .error .rd, .error .imm,
        .error .imm] := by decide

theorem test_decode_reserved_opcodes :
    [0x02000000#32, 0x0B000000#32, 0x13000000#32, 0x25000000#32, 0x34000000#32, 0x42000000#32, 0x52000000#32,
      0x62000000#32, 0x72000000#32, 0x80000000#32, 0xFFFFFFFF#32].all
        (fun w => decide (decode w = .error .opcode)) = true := by decide

theorem test_decode_tags :
    [0x30#8, 0x31#8, 0x32#8, 0x33#8, 0x34#8].map decodeTag = [.error .tag, .ok .tag1, .ok .tag2, .ok .tag3, .error .tag] := by
  decide

theorem test_decode_table_word :
    decodeTableWord 32 0x71210003 = some (.pdec 2 1 true true) ∧ decodeTableWord 8 0x32 = some .tag2 ∧
      decodeTableWord 32 0x50103003 = none := by decide

/-! ### Small states -/

/-- The state a result answers. -/
def ran : Result → Option State
  | .next t => some t
  | .fault _ => none
  | .refused _ => none

/-- A field of the state a result answers. -/
def get {α : Type} (f : State → α) (r : Result) : Option α := (ran r).map f

/-- After reset, with `CAP` at its least value. -/
def small : State := State.resetWith ⟨64⟩

/-- ASCII text. -/
def text (x : String) : Bytes := x.toList.map fun c => BitVec.ofNat 8 c.toNat

/-- `n` bytes counted up from 0. -/
def count (n : Nat) : Bytes := (List.range n).map (BitVec.ofNat 8)

/-- `B0` and `B1` hold as many bytes as said. -/
def sized (n m : Nat) : State := setBuf 1 (count m) (setBuf 0 (count n) small)

/-- Slot 0 suits DES, slot 1 AES, slot 2 Triple-DES; slot 3 has an AES key and no IV; the others are empty. -/
def keyed (s : State) : State :=
  setKey 3 (count 16) (setIv 2 (count 8) (setKey 2 (count 24) (setIv 1 (List.replicate 16 0#8) (setKey 1 (count 16)
    (setIv 0 (count 8) (setKey 0 [0x13#8, 0x34#8, 0x57#8, 0x79#8, 0x9B#8, 0xBC#8, 0xDF#8, 0xF1#8] s))))))

/-- The sequencer in a stage of a program of tags `t`, with key slot `k` for stage 0. -/
def running (t : Byte) (k : BitVec 3) (dir : Dir) (spc plen : BitVec 5) (w : Bytes) (s : State) : State :=
  setStageSlot 0 k (setStageTag 1 t (setStageTag 0 t
    { issue (match dir with | .enc => 0x70100000#32 | .dec => 0x71100000#32) s with
      sst := .run, spc := spc, sdir := dir, plen := plen, work := w }))

/-- The flags `BUSY`, `DONE`, `FAULT` and the fault record `ERR`, `ERRINFO`, `ECMD`. -/
def record (s : State) : List Nat :=
  [s.status.busy.toNat, s.status.done.toNat, s.status.fault.toNat, s.status.err.toNat, s.errinfo.toNat, s.ecmd.toNat]

/-! ### Known answers of the vectors -/

/-- V1: `MD5.RAW` of "abc" (42_md5.md R174). -/
theorem test_md5_abc : get (buf · 1) (exec (.md5 1 0 0) (setBuf 0 (text "abc") small)) =
    some [0x90#8, 0x01#8, 0x50#8, 0x98#8, 0x3c#8, 0xd2#8, 0x4f#8, 0xb0#8, 0xd6#8, 0x96#8, 0x3f#8, 0x7d#8, 0x28#8, 0xe1#8,
      0x7f#8, 0x72#8] := by decide +kernel

/-- The example of 42_md5.md R172. -/
theorem test_md5upd_abc : get (fun t => (t.md.len, t.md.buf, t.md.h == Md5Ctx.init.h))
    (exec (.md5upd 0) (setBuf 0 (text "abc") small)) = some (24#64, text "abc", true) := by decide +kernel

/-- The example of 42_md5.md R173. -/
theorem test_md5fin_hex : get (buf · 1) (exec (.md5fin 1 1) { small with md := ⟨Md5Ctx.init.h, text "abc", 24#64⟩ }) =
    some (text "900150983cd24fb0d6963f7d28e17f72") := by decide +kernel

/-- The example of 42_md5.md R177 (V22). -/
theorem test_hmac_key : get (buf · 2) (exec (.hmac 2 0 1 1) (setBuf 1 (text "The quick brown fox jumps over the lazy dog")
    (setBuf 0 (text "key") small))) = some (text "80070713463e7749b90c2dc24911e275") := by decide +kernel

/-- The example of 46_kdf.md R302. -/
theorem test_kdfk_abc : get (fun t => (slot t 2).key) (exec (.kdfk 2 0 0 16) (setBuf 0 (text "abc") small)) =
    some (text "900150983cd24fb0") := by decide +kernel

/-- The example of 46_kdf.md R303. -/
theorem test_kdfiv_abc : get (fun t => (slot t 2).iv) (exec (.kdfiv 2 1 16 16) (setBuf 1 (text "abc") small)) =
    some (text "d6963f7d28e17f72") := by decide +kernel

/-- V30: the worked example of DES (43_des.md R213). -/
theorem test_desenc_v30 : desEnc [0x13#8, 0x34#8, 0x57#8, 0x79#8, 0x9B#8, 0xBC#8, 0xDF#8, 0xF1#8]
    [0x01#8, 0x23#8, 0x45#8, 0x67#8, 0x89#8, 0xAB#8, 0xCD#8, 0xEF#8] =
    [0x85#8, 0xE8#8, 0x13#8, 0x54#8, 0x0F#8, 0x0A#8, 0xB4#8, 0x05#8] := by decide +kernel

/-- V3: the AES vector of the source (44_aes.md R252). -/
theorem test_aesenc_v3 : get (buf · 1) (exec (.aesenc 1 0 1) (setBuf 0
    [0x00#8, 0x11#8, 0x22#8, 0x33#8, 0x44#8, 0x55#8, 0x66#8, 0x77#8, 0x88#8, 0x99#8, 0xaa#8, 0xbb#8, 0xcc#8, 0xdd#8, 0xee#8,
      0xff#8] (keyed small))) =
    some [0x69#8, 0xc4#8, 0xe0#8, 0xd8#8, 0x6a#8, 0x7b#8, 0x04#8, 0x30#8, 0xd8#8, 0xcd#8, 0xb7#8, 0x80#8, 0x70#8, 0xb4#8,
      0xc5#8, 0x5a#8] := by decide +kernel

/-- V50: AES-CBC of the empty plaintext under a zero IV (45_cbc.md R289). -/
theorem test_cbcenc_empty : get (buf · 1) (exec (.cbcenc 1 0 1 2) (keyed small)) =
    some [0x95#8, 0x4f#8, 0x64#8, 0xf2#8, 0xe4#8, 0xe8#8, 0x6e#8, 0x9e#8, 0xee#8, 0x82#8, 0xd2#8, 0x02#8, 0x16#8, 0x68#8,
      0x48#8, 0x99#8] := by decide +kernel

/-- The inverse of V50 (45_cbc.md R290). -/
theorem test_cbcdec_empty : get (fun t => (buf t 2, t.status.done)) (exec (.cbcdec 2 1 1 2) (setBuf 1
    [0x95#8, 0x4f#8, 0x64#8, 0xf2#8, 0xe4#8, 0xe8#8, 0x6e#8, 0x9e#8, 0xee#8, 0x82#8, 0xd2#8, 0x02#8, 0x16#8, 0x68#8, 0x48#8,
      0x99#8] (keyed small))) = some ([], true) := by decide +kernel

/-- 41_base64.md R146 with `B64PAD` 1 and 0 (V80). -/
theorem test_b64enc_foob : (get (buf · 1) (exec (.b64enc 1 0 false) (setBuf 0 (text "foob") small)),
    get (buf · 1) (exec (.b64enc 1 0 true) (setBuf 0 (text "foob") { small with ctrl.b64Pad := false }))) =
    (some (text "Zm9vYg=="), some (text "Zm9vYg")) := by decide +kernel

/-- The example of 41_base64.md R147. -/
theorem test_b64dec_strips : get (buf · 1) (exec (.b64dec 1 0 false) (setBuf 0 (text "YW Jj\n") small)) =
    some (text "abc") := by decide +kernel

/-- The example of 41_base64.md R148. -/
theorem test_u8chk_c3_28 : get record (exec (.u8chk 0) (setBuf 0 [0xC3#8, 0x28#8] (issue 0x12000000#32 small))) =
    some [0, 0, 1, 2, 0, 0x12000000] := by decide +kernel

/-- The example of 47_pipeline.md R331: the empty slot 0 faults in stage 0. -/
theorem test_penc_fault_example :
    let r := runSteps 3 (setStageTag 0 0x31 (setStageTag 1 0x33 { issue 0x70100000#32 small with plen := 2 }))
    get record r = some [0, 0, 1, 3, 0x80000000, 0x70100000] ∧ get seqWord r = some 0#32 := by decide +kernel

/-- The examples of 47_pipeline.md R325 and R326. -/
theorem test_pipeline_example :
    get (fun t => (buf t 1, seqWord t)) (runSteps 3 (setBuf 0 (text "abc") (setStageTag 0 0x33
      { issue 0x70100000#32 small with plen := 1 }))) = some (text "YWJj", 0x00000010#32) ∧
    get (fun t => (buf t 2, seqWord t)) (runSteps 3 (setBuf 1 (text "YWJj") (setStageTag 0 0x33
      { issue 0x71210000#32 small with plen := 1 }))) = some (text "abc", 0x00001000#32) := by decide +kernel

/-- The example of 40_system_buffer.md R122. -/
theorem test_errclr_example : get (fun t => (statusWord t.status, t.errinfo, t.ecmd))
    (exec .errclr { issue 0x01000000#32 small with status := ⟨true, false, true, false, 2⟩, ecmd := 0x12000000#32 }) =
    some (0x00000002#32, 0#32, 0#32) := by decide

/-- The placed instruction is what the next step runs. -/
theorem test_with_fetch_word :
    get (fun t => (t.status.done, t.md == Md5Ctx.init)) (step (State.reset.withFetchWord 32 0x20000000)) = some (true, true) ∧
    get (fun t => (t.sst, t.spc)) (step (State.reset.withFetchWord 8 0x33)) = some (.post, 1#5) := by decide +kernel

/-! ### Witnesses: a state that meets the hypotheses of each statement, and each clause at a boundary -/

theorem test_witness_DecodeEncode : (Instr.kdfk 7 3 63 63).wf = true ∧ (Instr.cbcdec 3 3 7 2).wf = true ∧
    Instr.tag3.wf = true := by decide

theorem test_witness_EncodeDecode : decodeCode (.command 0x60730FFF#32) = .ok (.kdfk 7 3 63 63) ∧
    decodeCode (.tag 0x33#8) = .ok .tag3 := by decide

/-- A matching word, a word that meets the mask but not the constraint, and a word no row admits. -/
theorem test_witness_OpcodeTable :
    (decode 0x71210003#32 = .ok (.pdec 2 1 true true)) ∧
    (⟨0xFFCC8FFC#32, 0x50000000#32, true⟩ : OpcodeRow).Admits 0x50103002#32 ∧
    ¬ (⟨0xFFCC8FFC#32, 0x50000000#32, true⟩ : OpcodeRow).Admits 0x50103003#32 ∧
    ∀ (j : Instr) (r : OpcodeRow), commandRow j = some r → ¬ r.Admits 0x02000000#32 := by
  refine ⟨by decide, ⟨by decide, by decide⟩, fun h => absurd (h.2 rfl) (by decide), ?_⟩
  intro j r h
  cases j <;> cases h <;> exact fun h => absurd h.1 (by decide)

/-- The state about to execute `cw`, its turn coming with no event pending. -/
def atTurn (cw : Word) (s : State) : State := issue cw s

/-- The same with the turn as an explicit event. -/
def atEvent (cw : Word) (s : State) : State := { issue cw s with events := [.core] }

theorem test_witness_StepRunsInstruction_command :
    CoreTurn (atTurn 0#32 small) (atTurn 0#32 small) ∧ CoreTurn (atEvent 0#32 small) (atTurn 0#32 small) ∧
    (atTurn 0#32 small).status.busy = true ∧ (atTurn 0#32 small).sst ≠ .run ∧ decode (atTurn 0#32 small).cw = .ok .nop :=
  ⟨.inl ⟨rfl, rfl⟩, .inr ⟨[], rfl, rfl⟩, by decide, by decide, by decide⟩

theorem test_witness_StepRunsInstruction_tag :
    let s := running 0x31 1 .dec 1 1 [] small
    CoreTurn s s ∧ s.status.busy = true ∧ s.sst = .run ∧
      decodeTag (stageTag s (stageIndex (nextStage s))) = .ok .tag1 :=
  ⟨.inl ⟨rfl, rfl⟩, by decide, by decide, by decide⟩

theorem test_witness_StepRunsInstruction_idle : CoreTurn small small ∧ small.status.busy = false :=
  ⟨.inl ⟨rfl, rfl⟩, rfl⟩

/-- An illegal word, also one issued over a recorded fault. -/
theorem test_witness_IllegalEncodings_command :
    let s := atTurn 0x01000800#32 { small with status := ⟨false, false, true, false, 2#8⟩ }
    CoreTurn s s ∧ s.status.busy = true ∧ s.sst = .idle ∧ (∃ e, decode s.cw = .error e) ∧
      get record (step s) = some [0, 0, 1, 1, 0, 0x01000800] :=
  ⟨.inl ⟨rfl, rfl⟩, by decide, by decide, ⟨.imm, by decide⟩, by decide +kernel⟩

/-- The last stage of a program of 16, in either direction. -/
theorem test_witness_IllegalEncodings_tag :
    let s := { running 0x31 1 .enc 15 16 [] small with pcfg := Vector.replicate 16 0x34#8 }
    let d := { running 0x31 1 .dec 16 16 [] small with pcfg := Vector.replicate 16 0x30#8 }
    CoreTurn s s ∧ s.status.busy = true ∧ stageReady s = true ∧ s.plen.toNat ≤ 16 ∧ s.spc.toNat ≤ 16 ∧
      get record (step s) = some [0, 0, 1, 7, 0x8F000034, 0x70100000] ∧
      CoreTurn d d ∧ d.status.busy = true ∧ stageReady d = true ∧
      get record (step d) = some [0, 0, 1, 7, 0x8F000030, 0x71100000] :=
  ⟨.inl ⟨rfl, rfl⟩, by decide, by decide, by decide, by decide, by decide +kernel, .inl ⟨rfl, rfl⟩, by decide, by decide,
    by decide +kernel⟩

theorem test_witness_Resets : (0xFFFFFFFF#32).getLsbD 0 = true ∧ (0x00000001#32).getLsbD 0 = true := by decide

theorem test_witness_InvReset : (⟨64⟩ : Config).Legal ∧ (⟨65536⟩ : Config).Legal ∧ ¬ (⟨60⟩ : Config).Legal ∧
    ¬ (⟨65540⟩ : Config).Legal := by decide

/-- A one-stage `PENC` or `PDEC` just issued. -/
def issued (cw : Word) : State := setBuf 0 (text "abc") (setStageTag 0 0x33 { issue cw small with plen := 1 })

theorem test_inv_issued (cw : Word) : Inv (issued cw) where
  cfg := (by decide : (⟨64⟩ : Config).Legal)
  bufs := (by decide : ∀ b, (buf (issued 0#32) b).length ≤ 64)
  keys := (by decide : ∀ k, (slot (issued 0#32) k).key.length ≤ 24)
  ivs := (by decide : ∀ k, (slot (issued 0#32) k).iv.length ≤ 16)
  mdBuf := (by decide : ([] : Bytes).length = (0#64).toNat / 8 % 64)
  mdLen := (by decide : (0#64).toNat % 8 = 0)
  plen := (by decide : (1#5).toNat ≤ 16)
  busyDone _ := rfl
  doneFault _ := rfl
  busyFault _ h := Bool.noConfusion (h : false = true)
  record _ := ⟨rfl, rfl, rfl⟩
  code h := Bool.noConfusion (h : false = true)
  seq := (by decide : (0#5).toNat ≤ 16)

theorem test_witness_InvStep : Inv (issued 0x70100000#32) ∧ ∃ t, step (issued 0x70100000#32) = .next t ∧ t.sst = .run :=
  ⟨test_inv_issued _, _, rfl, rfl⟩

theorem test_witness_NeverStops : Inv (issued 0x71100003#32) := test_inv_issued _

/-- The edges of the map: the last register, the first and the last word of the windows, and what lies beside them. -/
theorem test_witness_BusErrors :
    small.cfg.Legal ∧ Mapped 64 0x78 ∧ Mapped 64 0x10000 ∧ Mapped 64 (0x10000 + 60) ∧ Mapped 64 (0x40000 + 60) ∧
    [0x0007C#20, 0x0000C#20, 0x10040#20, 0x50000#20, 0x0FFFC#20].all
      (fun a => decide (readReply 32 a small = ⟨.error, some 0#32⟩)) = true ∧
    [0x00078#20, 0x10000#20, 0x1003C#20, 0x4003C#20].all
      (fun a => decide (readReply 32 a small = ⟨.okay, some 0#32⟩)) = true ∧
    (readReply 8 0x00000#20 small).resp = .error ∧ readReply 32 0x00002#20 small = ⟨.error, some 0#32⟩ :=
  ⟨by decide, .inl (by decide), .inr ⟨0, 0, by decide⟩, .inr ⟨0, 60, by decide⟩, .inr ⟨3, 60, by decide⟩, by decide,
    by decide, by decide, by decide⟩

/-- `STATUS` while a fault is recorded. -/
def faulted : State := { small with status := ⟨false, false, true, false, 2#8⟩ }

theorem test_witness_CmdWrite :
    (small.status.busy = false ∧ small.status.fault = false) ∧
    (faulted.status.busy = false ∧ opcodeOf 0x01FFFFFF#32 = 0x01#8) ∧
    ¬ (faulted.status.busy = false ∧ (faulted.status.fault = false ∨ opcodeOf 0x00000000#32 = 0x01#8)) ∧
    ¬ ((atTurn 0#32 small).status.busy = false) := by decide

/-- V94: a write while busy is dropped with `OVR`, a soft reset is not. -/
theorem test_witness_WritesWhileBusy :
    let s := atTurn 0x12000000#32 small
    s.cfg.Legal ∧ s.status.busy = true ∧ Mapped s.cfg.cap (0x00060#20).toNat ∧
      ¬ ((0x00060#20 : BitVec 20) = 0x00010#20 ∧ (2#32).getLsbD 0 = true) ∧
      get (fun t => statusWord t.status) (onEvent (.write 32 0x00060#20 2#32) s) = some 0x00000009#32 ∧
      get (fun t => statusWord t.status) (onEvent (.write 32 0x00010#20 1#32) s) = some 0#32 :=
  ⟨by decide, by decide, .inl (by decide), by decide, by decide +kernel, by decide +kernel⟩

theorem test_witness_RegisterWrites :
    small.status.busy = false ∧ (0xFFFFFFFE#32).getLsbD 0 = false ∧
      get (fun t => ctrlWord t.ctrl) (onEvent (.write 32 0x00010#20 0xFFFFFFFE#32) small) = some 0x00000876#32 ∧
      (0x00058#20).toNat ∈ [0x00, 0x04, 0x08, 0x1C, 0x20, 0x24, 0x40, 0x44, 0x48, 0x4C, 0x50, 0x54, 0x58] := by
  decide +kernel

theorem test_witness_ProgramWrites :
    small.status.busy = false ∧ get (·.plen) (onEvent (.write 32 0x00060#20 0xFFFFFFF0#32) small) = some 16#5 ∧
      get (·.plen) (onEvent (.write 32 0x00060#20 17#32) small) = some 0#5 ∧
      get (fun t => (stageTag t 12, stageTag t 15)) (onEvent (.write 32 0x00070#20 0x31000033#32) small) =
        some (0x31#8, 0x33#8) ∧
      get (fun t => (stageSlot t 8, stageSlot t 15)) (onEvent (.write 32 0x00078#20 0xF0000009#32) small) =
        some (1#3, 7#3) := by decide +kernel

/-- The last word of a window, and a word the length cuts. -/
theorem test_witness_WindowReads :
    small.cfg.Legal ∧ 60 < small.cfg.cap ∧ 60 % 4 = 0 ∧
      readReply 32 (windowAddr 0 60) (sized 64 0) = ⟨.okay, some 0x3C3D3E3F#32⟩ ∧
      readReply 32 (windowAddr 0 4) (sized 7 0) = ⟨.okay, some 0x04050600#32⟩ := by decide +kernel

theorem test_witness_BufferWrites :
    (sized 7 0).cfg.Legal ∧ (sized 7 0).status.busy = false ∧ 60 < (sized 7 0).cfg.cap ∧
      get (buf · 0) (onEvent (.write 32 (windowAddr 0 4) 0xAABBCCDD#32) (sized 7 0)) =
        some (count 4 ++ [0xAA#8, 0xBB#8, 0xCC#8]) ∧
      get (fun t => (buf t 0).length) (onEvent (.write 32 0x00030#20 64#32) (sized 7 0)) = some 64 ∧
      get (fun t => (buf t 0).length) (onEvent (.write 32 0x00030#20 65#32) (sized 7 0)) = some 7 ∧
      get (buf · 0) (onEvent (.write 32 0x00030#20 0xFFFE0002#32) (sized 7 0)) = some (count 2) := by decide +kernel

theorem test_witness_NopOnlyCompletes : faulted.status.fault = true ∧
    get (fun t => (t.cw, t.status.ovr)) (onEvent (.write 32 0x00018#20 0#32) faulted) = some (0#32, true) := by decide +kernel

theorem test_witness_Errclr : Inv (issued 0x01000000#32) ∧ (issued 0x01000000#32).status.fault = false :=
  ⟨test_inv_issued _, rfl⟩

/-- `BCAT` up to `CAP` and one byte beyond. -/
theorem test_witness_BufferCommands :
    get (fun t => (buf t 0).length) (exec (.bcat 0 1) (sized 30 34)) = some 64 ∧
      get record (exec (.bcat 0 1) (sized 31 34)) = some [0, 0, 1, 5, 65, 0] := by decide +kernel

/-- A key of 24 bytes fits, one of 25 does not; an IV of 16 fits, one of 17 does not. -/
theorem test_witness_KsetkKsetiv :
    get (fun t => (slot t 7).key.length) (exec (.ksetk 7 0) (sized 24 16)) = some 24 ∧
      get record (exec (.ksetk 7 0) (sized 25 16)) = some [0, 0, 1, 3, 0, 0] ∧
      get (fun t => (slot t 7).iv.length) (exec (.ksetiv 7 1) (sized 24 16)) = some 16 ∧
      get record (exec (.ksetiv 7 1) (sized 25 17)) = some [0, 0, 1, 3, 1, 0] := by decide +kernel

/-- 48 bytes encode into 64, 49 would need 68. -/
theorem test_witness_B64enc :
    get (fun t => (buf t 1).length) (exec (.b64enc 1 0 false) (sized 48 0)) = some 64 ∧
      get record (exec (.b64enc 1 0 false) (sized 49 0)) = some [0, 0, 1, 5, 68, 0] := by decide +kernel

/-- Text that decodes to an ill-formed byte: a fault with `U`, the byte without. -/
theorem test_witness_B64decU8chk :
    get record (exec (.b64dec 1 0 true) (setBuf 0 (text "YYA=") small)) = some [0, 0, 1, 2, 1, 0] ∧
      get (buf · 1) (exec (.b64dec 1 0 false) (setBuf 0 (text "YYA=") small)) = some [0x61#8, 0x80#8] ∧
      get (·.status.done) (exec (.u8chk 0) small) = some true := by decide +kernel

/-- The edges of the table of 41_base64.md R145. -/
theorem test_witness_Utf8WellFormed :
    utf8Bad (text "a" ++ [0xED#8, 0x9F#8, 0xBF#8]) = none ∧ utf8Bad (text "a" ++ [0xED#8, 0xA0#8, 0x80#8]) = some 1 ∧
      utf8Bad [0xF4#8, 0x8F#8, 0xBF#8, 0xBF#8] = none ∧ utf8Bad [0xF4#8, 0x90#8, 0x80#8, 0x80#8] = some 0 ∧
      IsScalar 0x10FFFF ∧ IsScalar 0xD7FF ∧ ¬ IsScalar 0xD800 := by
  refine ⟨by decide, by decide, by decide, by decide, .inr (by decide), .inl (by decide), ?_⟩
  unfold IsScalar; omega

/-- The reserved format stops the digest commands. -/
theorem test_witness_Md5Fin_Md5Hmac :
    get record (exec (.md5fin 1 3) small) = some [0, 0, 1, 1, 0, 0] ∧
      get record (exec (.md5 1 0 3) small) = some [0, 0, 1, 1, 0, 0] ∧
      get record (exec (.hmac 1 0 2 3) small) = some [0, 0, 1, 1, 0, 0] := by decide +kernel

/-- The padding of 55 and of 56 bytes. -/
theorem test_witness_Md5Absorb : (md5Pad (count 55) 440#64).length = 64 ∧ (md5Pad (count 56) 448#64).length = 128 ∧
    (md5Pad (count 63) 504#64).length = 128 := by decide +kernel

theorem test_witness_Md5Split : (2#2 : BitVec 2) ≠ 3#2 := by decide

/-- The checks of the DES commands in order: no key, a wrong input, both right. -/
theorem test_witness_DesCommands :
    get record (exec (.desenc 1 0 4) (sized 7 0)) = some [0, 0, 1, 3, 0, 0] ∧
      get record (exec (.desdec 1 0 0) (keyed (sized 9 0))) = some [0, 0, 1, 4, 9, 0] ∧
      get record (exec (.tdesenc 1 0 0) (keyed (sized 8 0))) = some [0, 0, 1, 3, 0, 0] ∧
      get record (exec (.tdesdec 1 0 2) (keyed (sized 7 0))) = some [0, 0, 1, 4, 7, 0] ∧
      (slot (keyed (sized 8 0)) 0).key.length = 8 ∧ (slot (keyed (sized 8 0)) 2).key.length = 24 ∧
      (buf (keyed (sized 8 0)) 0).length = 8 := by decide +kernel

theorem test_witness_DesInverse :
    (count 8).length = 8 ∧ (count 24).length = 24 ∧
      ([0x12#8, 0x34#8, 0x56#8, 0x78#8, 0x9A#8, 0xBC#8, 0xDE#8, 0xF0#8].map fun x => x ||| 1#8) =
        [0x13#8, 0x34#8, 0x57#8, 0x79#8, 0x9B#8, 0xBC#8, 0xDF#8, 0xF1#8].map fun x => x ||| 1#8 := by decide

/-- The checks of the AES commands in order. -/
theorem test_witness_AesCommands :
    get record (exec (.aesenc 1 0 0) (keyed (sized 16 0))) = some [0, 0, 1, 3, 0, 0] ∧
      get record (exec (.aesdec 1 0 1) (keyed (sized 15 0))) = some [0, 0, 1, 4, 15, 0] ∧
      (slot (keyed (sized 16 0)) 1).key.length = 16 ∧ (buf (keyed (sized 16 0)) 0).length = 16 := by decide +kernel

theorem test_witness_AesInverse_AesTTables : (count 16).length = 16 := by decide

/-- The checks of `CBCENC` in order: reserved selector, key, IV, 48 bytes that fit no more, 47 that do. -/
theorem test_witness_Cbcenc :
    get record (exec (.cbcenc 1 0 1 3) (keyed small)) = some [0, 0, 1, 1, 0, 0] ∧
      get record (exec (.cbcenc 1 0 4 2) (keyed small)) = some [0, 0, 1, 3, 0, 0] ∧
      get record (exec (.cbcenc 1 0 3 2) (keyed small)) = some [0, 0, 1, 3, 1, 0] ∧
      get record (exec (.cbcenc 1 0 1 2) (keyed (sized 64 0))) = some [0, 0, 1, 5, 80, 0] ∧
      (buf (keyed (sized 63 0)) 0).length + 16 - (buf (keyed (sized 63 0)) 0).length % 16 = 64 := by decide +kernel

/-- The checks of `CBCDEC` in order, and the hardened check on a block that decrypts to ill-formed padding. -/
theorem test_witness_Cbcdec :
    get record (exec (.cbcdec 1 0 1 3) (keyed small)) = some [0, 0, 1, 1, 0, 0] ∧
      get record (exec (.cbcdec 1 0 4 2) (keyed (sized 16 0))) = some [0, 0, 1, 3, 0, 0] ∧
      get record (exec (.cbcdec 1 0 3 2) (keyed (sized 16 0))) = some [0, 0, 1, 3, 1, 0] ∧
      get record (exec (.cbcdec 1 0 1 2) (keyed small)) = some [0, 0, 1, 4, 0, 0] ∧
      get record (exec (.cbcdec 1 0 1 2) (keyed (sized 17 0))) = some [0, 0, 1, 4, 17, 0] ∧
      get (fun t => t.status.err) (exec (.cbcdec 1 0 1 2) { keyed (sized 16 0) with ctrl.padChk := true }) = some 8#8 := by
  decide +kernel

theorem test_witness_CbcRoundTrip :
    let k : KeySlot := ⟨count 24, count 8⟩
    k.key.length = keyLen .tdes ∧ k.iv.length = blockLen .tdes := by decide

/-- Slices that end at digit 32 and beyond, keys of 24 and 25 characters, IVs of 16 and 17. -/
theorem test_witness_KdfCommands :
    get (fun t => (slot t 0).key.length) (exec (.kdfk 0 0 8 24) small) = some 24 ∧
      get record (exec (.kdfk 0 0 9 24) small) = some [0, 0, 1, 6, 9 * 64 + 24, 0] ∧
      get record (exec (.kdfk 0 0 0 25) small) = some [0, 0, 1, 6, 25, 0] ∧
      get (fun t => (slot t 0).iv.length) (exec (.kdfiv 0 0 16 16) small) = some 16 ∧
      get record (exec (.kdfiv 0 0 0 17) small) = some [0, 0, 1, 6, 17, 0] := by decide +kernel

/-- A program of no stage, one of a stage, and the Post step. -/
theorem test_witness_PencSteps :
    small.sst = .idle ∧ get (·.sst) (exec (.penc 1 0) small) = some .post ∧
      get (·.sst) (exec (.penc 1 0) (issued 0x70100000#32)) = some .run ∧
      get (fun t => (buf t 1, t.sst)) (exec (.penc 1 0) { small with sst := .post, work := text "w" }) =
        some (text "w", .idle) := by decide +kernel

/-- The Post step of `PDEC`: the `U` fault, the `R` overflow at 49 bytes, 48 bytes, and no option. -/
theorem test_witness_PdecSteps :
    let post (w : Bytes) : State := { small with sst := .post, work := w }
    get (fun t => (t.sst, t.spc)) (exec (.pdec 1 0 false false) (issued 0x71100000#32)) = some (.run, 1#5) ∧
      get record (exec (.pdec 1 0 true true) (post [0x80#8])) = some [0, 0, 1, 2, 0, 0] ∧
      get record (exec (.pdec 1 0 false true) (post (count 49))) = some [0, 0, 1, 5, 68, 0] ∧
      get (fun t => (buf t 1).length) (exec (.pdec 1 0 true true) (post (count 48))) = some 64 ∧
      get (buf · 1) (exec (.pdec 1 0 false false) (post (text "x"))) = some (text "x") := by decide +kernel

/-- Encode direction: wrong key, wrong IV, overflow, and the last stage of a program that completes. -/
theorem test_witness_TagsEncode :
    get record (exec .tag1 (running 0x31 4 .enc 0 1 [] (keyed small))) =
        some [0, 0, 1, 3, 0x80000000, 0x70100000] ∧
      get record (exec .tag1 (running 0x31 3 .enc 0 1 [] (keyed small))) =
        some [0, 0, 1, 3, 0x80000001, 0x70100000] ∧
      get record (exec .tag2 (running 0x32 0 .enc 0 2 (count 64) (keyed small))) =
        some [0, 0, 1, 5, 0x80000048, 0x70100000] ∧
      get (fun t => (t.work.length, t.spc, t.sst)) (exec .tag1 (running 0x31 1 .enc 0 1 [] (keyed small))) =
        some (16, 1#5, .post) ∧
      get record (exec .tag3 (running 0x33 0 .enc 1 2 (count 49) small)) =
        some [0, 0, 1, 5, 0x81000044, 0x70100000] ∧
      get (fun t => (t.work, t.spc, t.sst)) (exec .tag3 (running 0x33 0 .enc 0 2 (text "abc") small)) =
        some (text "YWJj", 1#5, .run) := by decide +kernel

/-- Decode direction: wrong key, wrong IV, wrong length, hardened padding, and stages that complete. -/
theorem test_witness_TagsDecode :
    get record (exec .tag1 (running 0x31 4 .dec 1 1 (count 16) (keyed small))) =
        some [0, 0, 1, 3, 0x80000000, 0x71100000] ∧
      get record (exec .tag1 (running 0x31 3 .dec 1 1 (count 16) (keyed small))) =
        some [0, 0, 1, 3, 0x80000001, 0x71100000] ∧
      get record (exec .tag2 (running 0x32 0 .dec 1 2 (count 9) (keyed small))) =
        some [0, 0, 1, 4, 0x80000009, 0x71100000] ∧
      get (fun t => (t.status.err, t.spc))
        (exec .tag1 (running 0x31 1 .dec 1 1 (count 16) { keyed small with ctrl.padChk := true })) = some (8#8, 0#5) ∧
      get (fun t => (t.spc, t.sst)) (exec .tag1 (running 0x31 1 .dec 1 1 (count 16) (keyed small))) = some (0#5, .post) ∧
      get (fun t => (t.work, t.spc, t.sst)) (exec .tag3 (running 0x33 0 .dec 2 2 (text "YWJj") small)) =
        some (text "abc", 1#5, .run) := by decide +kernel

theorem test_witness_NoCoreStep : stageReady small = false ∧ stageReady (running 0x31 1 .enc 1 1 [] small) = false ∧
    (running 0x31 1 .enc 0 1 [] small).sst = .run := by decide

theorem test_witness_StageRoundTrip :
    stageEnc 64 small.ctrl 0x33 ⟨[], []⟩ (text "abc") = .ok (text "YWJj") := by decide +kernel

theorem test_witness_PipelineRefines :
    Inv (issued 0x70100000#32) ∧ Issued (issued 0x70100000#32) ∧ decode (issued 0x70100000#32).cw = .ok (.penc 1 0) ∧
      encStages (issued 0x70100000#32) 1 0 (text "abc") = .ok (text "YWJj") ∧
      Inv (issued 0x71100003#32) ∧ Issued (issued 0x71100003#32) ∧
      decode (issued 0x71100003#32).cw = .ok (.pdec 1 0 true true) ∧
      (∃ w, decStages (issued 0x71100003#32) 1 (text "abc") = .ok w) :=
  ⟨test_inv_issued _, ⟨rfl, rfl, rfl⟩, by decide, by decide +kernel, test_inv_issued _, ⟨rfl, rfl, rfl⟩, by decide, _, rfl⟩

theorem test_witness_EndToEnd :
    Inv (issued 0x70100000#32) ∧ Issued (issued 0x70100000#32) ∧ decode (issued 0x70100000#32).cw = .ok (.penc 1 0) ∧
      get (·.status.fault) (runSteps 3 (issued 0x70100000#32)) = some false ∧
      decode 0x71210001#32 = .ok (.pdec 2 1 true false) ∧ utf8Bad (buf (issued 0x70100000#32) 0) = none :=
  ⟨test_inv_issued _, ⟨rfl, rfl, rfl⟩, by decide, by decide +kernel, by decide, by decide⟩

/-- A step that raises a fault, and a core step that ends nothing. -/
theorem test_witness_PreciseFaults :
    (atTurn 0x02000000#32 small).status.fault = false ∧
      get (·.status.fault) (step (atTurn 0x02000000#32 small)) = some true ∧
      get (·.status.busy) (coreStep (issued 0x70100000#32)) = some true := by decide +kernel

theorem test_witness_Progress : Inv (issued 0x71100003#32) ∧ (issued 0x71100003#32).events = [] ∧
    (issued 0x71100003#32).status.busy = true := ⟨test_inv_issued _, rfl, rfl⟩

theorem test_witness_Interleaving :
    (∀ e ∈ [HostEvent.core, .read 32 0x00014#20, .core], e = .core ∨ ∃ width addr, e = .read width addr) ∧
      get (·.sst) (runSteps 3 { issued 0x70100000#32 with events := [.core, .read 32 0x00014#20, .core] }) =
        some .post :=
  ⟨by simp, by decide +kernel⟩

/-- A slot and the context changed by a command and by both resets. -/
theorem test_witness_HiddenWriters :
    get (fun t => slot t 0 != slot small 0) (step (setBuf 0 (count 8) (atTurn 0x0C000000#32 small))) = some true ∧
      get (fun t => slot t 0 != slot (keyed small) 0) (step { keyed small with events := [.hardReset] }) = some true ∧
      get (fun t => slot t 0 != slot (keyed small) 0)
        (step { keyed small with events := [.write 32 0x00010#20 1#32] }) = some true ∧
      get (fun t => t.md != small.md) (step (setBuf 0 (count 8) (atTurn 0x21000000#32 small))) = some true := by
  decide +kernel

theorem test_witness_ProgrammedKept : small.sst = .idle ∧ (∃ t, exec .nop small = .next t) ∧
    (∀ rd ra, Instr.nop ≠ .penc rd ra) ∧ ∀ rd ra u r, Instr.nop ≠ .pdec rd ra u r := by
  refine ⟨rfl, ⟨_, rfl⟩, ?_, ?_⟩ <;> intros <;> simp

theorem test_witness_HiddenState : (text "xyz").length = (text "abc").length := by decide

theorem test_witness_WorkUnobservable : SameVisible (atTurn 0#32 small) { atTurn 0#32 small with work := text "old" } ∧
    ∃ t, step (atTurn 0#32 small) = .next t := ⟨⟨rfl, fun h => absurd rfl h⟩, _, rfl⟩

/-- The premise of `BusyFaultExclusive`: a recorded fault, its `ERRCLR` about to be written. -/
theorem test_witness_BusyFaultExclusive :
    let s := { faulted with events := [.write 32 0x00018#20 0x01000000#32] }
    Inv s ∧ ¬ (s.status.busy = true ∧ s.status.fault = true) ∧
      get (fun t => (t.status.busy, t.status.fault)) (step s) = some (true, true) :=
  ⟨⟨by decide, by decide, by decide, by decide, by rfl, by rfl, by decide, by decide, by decide, by decide, by decide,
    by decide, by show (0 : Nat) ≤ 16; omega⟩, by decide, by decide +kernel⟩

end Sys2Proof.Tests
end

/-! The commands outside the sequencer, said once: each ends at once (40_system_buffer.md R120), with a fault or with a
commit that stores one thing, and what it commits does not depend on `W`. -/

namespace Sys2Proof.Machine

/-- What a command outside the sequencer stores when it ends without a fault. -/
inductive Commit where
  /-- Nothing: `NOP`, `U8CHK`. -/
  | nothing
  /-- The cleared fault record: `ERRCLR`. -/
  | record
  /-- A buffer. -/
  | buffer (rd : BitVec 2) (v : Bytes)
  /-- The key of a slot: `KSETK`, `KDFK`. -/
  | key (kd : BitVec 3) (v : Bytes)
  /-- The IV of a slot: `KSETIV`, `KDFIV`. -/
  | iv (kd : BitVec 3) (v : Bytes)
  /-- The MD5 context: `MD5INIT`, `MD5UPD`. -/
  | context (m : Md5Ctx)
  /-- The digest in a buffer and the context as initialised: `MD5FIN`. -/
  | digest (rd : BitVec 2) (v : Bytes)

/-- The state with the commit stored, before the flags of R120. -/
def Commit.apply (s : State) : Commit → State
  | .nothing => s
  | .record => clearFault s
  | .buffer rd v => setBuf rd v s
  | .key kd v => setKey kd v s
  | .iv kd v => setIv kd v s
  | .context m => { s with md := m }
  | .digest rd v => setBuf rd v { s with md := Md5Ctx.init }

/-- The sizes a result rests on: `CAP` at least R6's least value, and the buffers within it (10_state.md R22). -/
structure Sized (s : State) : Prop where
  cap : 64 ≤ s.cfg.cap
  bufs : ∀ b, (buf s b).length ≤ s.cfg.cap

/-- The counts of an MD5 context (10_state.md R25): whole bytes, of which the last block's are pending. -/
structure Md5Ctx.Counted (m : Md5Ctx) : Prop where
  buf : m.buf.length = m.len.toNat / 8 % 64
  len : m.len.toNat % 8 = 0

/-- The commits instruction `i` may answer in `s`: only the ones of its own kind, each within its capacity. -/
def Commit.Allowed (i : Instr) (s : State) : Commit → Prop
  | .nothing => True
  | .record => i = .errclr
  | .buffer _ v => Sized s → v.length ≤ s.cfg.cap
  | .key kd v => ((∃ ra, i = .ksetk kd ra) ∨ ∃ ra off len, i = .kdfk kd ra off len) ∧ v.length ≤ keyCap
  | .iv kd v => ((∃ ra, i = .ksetiv kd ra) ∨ ∃ ra off len, i = .kdfiv kd ra off len) ∧ v.length ≤ ivCap
  | .context m => (i = .md5init ∨ ∃ ra, i = .md5upd ra) ∧ (s.md.Counted → m.Counted)
  | .digest rd v => (∃ fmt, i = .md5fin rd fmt) ∧ v.length ≤ 32

/-- The instructions of the pipeline sequencer (47_pipeline.md): `PENC`, `PDEC` and the stage tags. -/
def Sequenced : Instr → Prop
  | .penc _ _ | .pdec _ _ _ _ | .tag1 | .tag2 | .tag3 => True
  | _ => False

/-- The state with another working string. -/
def withWork (w : Bytes) (s : State) : State :=
  { s with work := w }

/-- The instruction ends at once in `s`, with a fault or an allowed commit, and `W` has no part in it. -/
def EndsAtOnce (i : Instr) (s : State) : Prop :=
  ∃ r : Except Raise Commit,
    (∀ w, exec i (withWork w s) =
      retire (withWork w s) (r.map fun c => c.apply (withWork w s))) ∧
    ∀ c, r = .ok c → c.Allowed i s

/-! ### The counts of the MD5 context -/

theorem counted_init : Md5Ctx.init.Counted := ⟨rfl, rfl⟩

/-- Absorbing keeps the counts (42_md5.md R168), also when the bit count wraps at 2^64. -/
theorem counted_md5Absorb {m : Md5Ctx} (h : m.Counted) (x : Bytes) : (md5Absorb m x).Counted := by
  obtain ⟨hbuf, hlen⟩ := h
  have hnew : (md5Absorb m x).len.toNat = (m.len.toNat + 8 * x.length) % 2 ^ 64 := by
    simp [md5Absorb, BitVec.toNat_add]
  have hpending : (md5Absorb m x).buf.length = (m.buf.length + x.length) % 64 := by
    simp only [md5Absorb, List.length_drop, List.length_append]
    omega
  constructor <;> omega

/-! ### Results that fit their place -/

/-- A single block is at most 16 bytes (43_des.md R213 to R216, 44_aes.md R252, R253). -/
theorem length_blockChecked_le {c : Cipher} {crypt : Bytes → Bytes → Bytes} {k : KeySlot} {x v : Bytes}
    (hcrypt : ∀ {key : Bytes}, key.length = keyLen c → ∀ y, (crypt key y).length = blockLen c)
    (h : blockChecked c crypt k x = .ok v) : v.length ≤ 16 := by
  unfold blockChecked at h
  split at h
  · cases h
  · split at h
    · cases h
    · rename_i hkey _
      cases h
      rw [hcrypt (by simpa using hkey)]
      cases c <;> decide

/-- A digest in any format is at most 32 bytes (42_md5.md R170). -/
theorem length_digestFormat_le {fmt : BitVec 2} {c : Ctrl} {d v : Bytes} (hd : d.length = 16)
    (h : (digestFormatChecked fmt).map (fun f => render c f d) = .ok v) : v.length ≤ 32 := by
  cases hf : digestFormatChecked fmt with
  | error e => rw [hf] at h; cases h
  | ok f => rw [hf] at h; cases h; exact length_render_le c f hd

/-- A checked selector's cipher passes on to what is done with it, or nothing does. -/
theorem cipherChecked_bind_ok {c : BitVec 2} {f : Cipher → Except Raise Bytes} {v : Bytes}
    (h : (do f (← cipherChecked c)) = Except.ok v) : ∃ x, f x = .ok v := by
  cases hc : cipherChecked c with
  | error e => rw [hc] at h; cases h
  | ok x => rw [hc] at h; exact ⟨x, h⟩

/-- The result of the `U` check is the string checked (41_base64.md R147). -/
theorem utf8Option_ok {u : Bool} {x v : Bytes} (h : (if u then utf8Checked x else .ok x) = Except.ok v) : v = x := by
  cases u with
  | false => cases h; rfl
  | true => exact (utf8Checked_ok h).1

theorem ok_of_map_eq_ok {α β : Type} {r : Except Raise α} {f : α → β} {b : β} (h : r.map f = .ok b) :
    ∃ a, r = .ok a ∧ b = f a := by
  cases r with
  | error e => cases h
  | ok a => cases h; exact ⟨a, rfl, rfl⟩

/-! ### Each command -/

/-- A command that puts one result, computed without `W`, in a buffer. -/
theorem endsAtOnce_of_retireBuf {i : Instr} {s : State} (rd : BitVec 2) (r : Except Raise Bytes)
    (hexec : ∀ w, exec i (withWork w s) = retireBuf rd (withWork w s) r)
    (hfits : ∀ v, r = .ok v → Sized s → v.length ≤ s.cfg.cap) : EndsAtOnce i s := by
  refine ⟨r.map (.buffer rd), fun w => ?_, fun c hc => ?_⟩
  · rw [hexec w]
    cases r <;> rfl
  · obtain ⟨v, hv, rfl⟩ := ok_of_map_eq_ok hc
    exact hfits v hv

/-- A command whose commit, of some `place`, takes one result. -/
theorem endsAtOnce_of_map {i : Instr} {s : State} {α : Type} (r : Except Raise α) (place : α → Commit)
    (hexec : ∀ w, exec i (withWork w s) =
      retire (withWork w s) (r.map fun v => (place v).apply (withWork w s)))
    (hallowed : ∀ v, r = .ok v → (place v).Allowed i s) : EndsAtOnce i s := by
  refine ⟨r.map place, fun w => ?_, fun c hc => ?_⟩
  · rw [hexec w]
    cases r <;> rfl
  · obtain ⟨v, hv, rfl⟩ := ok_of_map_eq_ok hc
    exact hallowed v hv

/-- A single-block command (43_des.md R213 to R216, 44_aes.md R252, R253). -/
theorem endsAtOnce_of_block {i : Instr} {s : State} (rd ra : BitVec 2) (k : BitVec 3) (c : Cipher)
    (crypt : Bytes → Bytes → Bytes)
    (hcrypt : ∀ {key : Bytes}, key.length = keyLen c → ∀ y, (crypt key y).length = blockLen c)
    (hexec : ∀ w, exec i (withWork w s) =
      retireBuf rd (withWork w s) (blockChecked c crypt (slot s k) (buf s ra))) : EndsAtOnce i s :=
  endsAtOnce_of_retireBuf rd _ hexec fun _ h hs =>
    (length_blockChecked_le hcrypt h).trans (Nat.le_trans (by decide) hs.cap)

/-- A command that puts a digest of 16 bytes, in a format, in a buffer (42_md5.md R174, R177). -/
theorem endsAtOnce_of_digest {i : Instr} {s : State} (rd fmt : BitVec 2) (d : Bytes) (hd : d.length = 16)
    (hexec : ∀ w, exec i (withWork w s) =
      retireBuf rd (withWork w s) ((digestFormatChecked fmt).map fun f => render s.ctrl f d)) : EndsAtOnce i s :=
  endsAtOnce_of_retireBuf rd _ hexec fun _ h hs =>
    (length_digestFormat_le hd h).trans (Nat.le_trans (by decide) hs.cap)

theorem endsAtOnce_bcat (rd ra : BitVec 2) (s : State) : EndsAtOnce (.bcat rd ra) s := by
  refine endsAtOnce_of_retireBuf rd
    (if (buf s rd).length + (buf s ra).length > s.cfg.cap then .error (.overflow ((buf s rd).length + (buf s ra).length))
      else .ok (buf s rd ++ buf s ra))
    (fun _ => rfl) fun v h _ => ?_
  split at h
  · cases h
  · cases h
    rw [List.length_append]
    exact Nat.le_of_not_gt ‹_›

/-- A command that stores a string of at most `cap` bytes, in some `place` (R126, R127). -/
theorem endsAtOnce_of_load {i : Instr} {s : State} (x : Bytes) (cap : Nat) (e : Raise) (place : Bytes → Commit)
    (hexec : ∀ w, exec i (withWork w s) =
      retire (withWork w s) (if x.length > cap then .error e else .ok ((place x).apply (withWork w s))))
    (hallowed : x.length ≤ cap → (place x).Allowed i s) : EndsAtOnce i s := by
  by_cases hx : x.length > cap
  · exact endsAtOnce_of_map (.error e) place (fun w => by rw [hexec w, if_pos hx]; rfl) nofun
  · refine endsAtOnce_of_map (.ok x) place (fun w => by rw [hexec w, if_neg hx]; rfl) ?_
    rintro _ ⟨⟩
    exact hallowed (Nat.le_of_not_gt hx)

/-- Every command outside the sequencer ends at once (R120). -/
theorem endsAtOnce {i : Instr} (h : ¬ Sequenced i) (s : State) : EndsAtOnce i s := by
  cases i with
  | nop => exact endsAtOnce_of_map (.ok ()) (fun _ => .nothing) (fun _ => rfl) fun _ _ => trivial
  | errclr => exact endsAtOnce_of_map (.ok ()) (fun _ => .record) (fun _ => rfl) fun _ _ => rfl
  | bclr rd => exact endsAtOnce_of_retireBuf rd (.ok []) (fun _ => rfl) fun _ h _ => by cases h; exact Nat.zero_le _
  | bcpy rd ra => exact endsAtOnce_of_retireBuf rd (.ok (buf s ra)) (fun _ => rfl) fun _ h hs => by cases h; exact hs.bufs ra
  | bcat rd ra => exact endsAtOnce_bcat rd ra s
  | ksetk kd ra =>
    exact endsAtOnce_of_load (buf s ra) keyCap (.keyLen false) (.key kd) (fun _ => rfl) fun h => ⟨.inl ⟨ra, rfl⟩, h⟩
  | ksetiv kd ra =>
    exact endsAtOnce_of_load (buf s ra) ivCap (.keyLen true) (.iv kd) (fun _ => rfl) fun h => ⟨.inl ⟨ra, rfl⟩, h⟩
  | b64enc rd ra u =>
    exact endsAtOnce_of_retireBuf rd (b64encChecked s.cfg.cap s.ctrl.b64Pad (buf s ra)) (fun _ => rfl)
      fun _ h _ => (b64encChecked_ok h).2.2
  | b64dec rd ra u =>
    refine endsAtOnce_of_retireBuf rd
      (if u then utf8Checked (b64dec (buf s ra)) else .ok (b64dec (buf s ra))) (fun _ => rfl) fun v h hs => ?_
    rw [utf8Option_ok h]
    exact (length_b64dec_le _).trans (hs.bufs ra)
  | u8chk ra => exact endsAtOnce_of_map (utf8Checked (buf s ra)) (fun _ => .nothing) (fun _ => rfl) fun _ _ => trivial
  | md5init =>
    exact endsAtOnce_of_map (.ok Md5Ctx.init) .context (fun _ => rfl) fun _ h => by
      cases h; exact ⟨.inl rfl, fun _ => counted_init⟩
  | md5upd ra =>
    exact endsAtOnce_of_map (.ok (md5Absorb s.md (buf s ra))) .context (fun _ => rfl) fun _ h => by
      cases h; exact ⟨.inr ⟨ra, rfl⟩, fun hm => counted_md5Absorb hm _⟩
  | md5fin rd fmt =>
    exact endsAtOnce_of_map (digestFormatChecked fmt) (fun f => .digest rd (render s.ctrl f (md5Finish s.md)))
      (fun _ => rfl) fun f _ => ⟨⟨fmt, rfl⟩, length_render_le s.ctrl f (length_md5Finish _)⟩
  | md5 rd ra fmt => exact endsAtOnce_of_digest rd fmt (md5Sum (buf s ra)) (length_md5Sum _) fun _ => rfl
  | hmac rd ra rb fmt => exact endsAtOnce_of_digest rd fmt (hmacMd5 (buf s ra) (buf s rb)) (length_hmacMd5 _ _) fun _ => rfl
  | desenc rd ra k => exact endsAtOnce_of_block rd ra k .des (blockEnc .des) (length_blockEnc (c := .des)) fun _ => rfl
  | desdec rd ra k => exact endsAtOnce_of_block rd ra k .des (blockDec .des) (length_blockDec (c := .des)) fun _ => rfl
  | tdesenc rd ra k => exact endsAtOnce_of_block rd ra k .tdes (blockEnc .tdes) (length_blockEnc (c := .tdes)) fun _ => rfl
  | tdesdec rd ra k => exact endsAtOnce_of_block rd ra k .tdes (blockDec .tdes) (length_blockDec (c := .tdes)) fun _ => rfl
  | aesenc rd ra k => exact endsAtOnce_of_block rd ra k .aes (blockEnc .aes) (length_blockEnc (c := .aes)) fun _ => rfl
  | aesdec rd ra k => exact endsAtOnce_of_block rd ra k .aes (blockDec .aes) (length_blockDec (c := .aes)) fun _ => rfl
  | cbcenc rd ra k c =>
    refine endsAtOnce_of_retireBuf rd (do cbcEncChecked s.cfg.cap (← cipherChecked c) (slot s k) (buf s ra))
      (fun _ => rfl) fun v h _ => ?_
    obtain ⟨x, hx⟩ := cipherChecked_bind_ok h
    exact (cbcEncChecked_ok hx).2.2.2
  | cbcdec rd ra k c =>
    refine endsAtOnce_of_retireBuf rd (do cbcDecChecked s.ctrl.padChk (← cipherChecked c) (slot s k) (buf s ra))
      (fun _ => rfl) fun v h hs => ?_
    obtain ⟨x, hx⟩ := cipherChecked_bind_ok h
    exact (cbcDecChecked_ok hx).2.2.2.2.2.trans (hs.bufs ra)
  | kdfk kd ra off len =>
    exact endsAtOnce_of_map (kdf s.ctrl (buf s ra) off len keyCap) (.key kd) (fun _ => rfl) fun _ h =>
      ⟨.inr ⟨ra, off, len, rfl⟩, kdf_ok h⟩
  | kdfiv kd ra off len =>
    exact endsAtOnce_of_map (kdf s.ctrl (buf s ra) off len ivCap) (.iv kd) (fun _ => rfl) fun _ h =>
      ⟨.inr ⟨ra, off, len, rfl⟩, kdf_ok h⟩
  | penc rd ra => exact absurd trivial h
  | pdec rd ra u r => exact absurd trivial h
  | tag1 => exact absurd trivial h
  | tag2 => exact absurd trivial h
  | tag3 => exact absurd trivial h

end Sys2Proof.Machine

/-! What `exec` can answer, said once for all instructions, and what no instruction changes (10_state.md R31, 20_memory.md
R75). -/

namespace Sys2Proof.Machine

/-- The states a core step that executes `i` in `s` can leave (40_system_buffer.md R120, 47_pipeline.md R328 to R331). -/
inductive Answer (i : Instr) (s : State) : State → Prop where
  /-- A command outside the sequencer ends with its commit. -/
  | commit (hi : ¬ Sequenced i) (c : Commit) (hc : c.Allowed i s) : Answer i s (complete (c.apply s))
  /-- A command ends with a fault; `PDEC` can do so in its Post step only. -/
  | fault (hi : Sequenced i → s.sst = .post) (e : Raise) : Answer i s (takeFault e none s)
  /-- The Start step of `PENC`. -/
  | startEnc (rd ra : BitVec 2) (hi : i = .penc rd ra) (hs : s.sst = .idle) : Answer i s (startStep ra 0#5 .enc s)
  /-- The Start step of `PDEC`. -/
  | startDec (rd ra : BitVec 2) (u r : Bool) (hi : i = .pdec rd ra u r) (hs : s.sst = .idle) :
    Answer i s (startStep ra s.plen .dec s)
  /-- The Post step of `PENC` or `PDEC`. -/
  | post (hs : s.sst = .post) (rd : BitVec 2) (v : Bytes)
    (hv : s.work.length ≤ s.cfg.cap → v.length ≤ s.cfg.cap) : Answer i s (complete (postCommit rd v s))
  /-- The Stage step of a tag. -/
  | stage (g : Byte) (t : State) (h : stageStep g s = .next t) : Answer i s t

/-- The `R` option's encoding, or the string itself, stays within `CAP` (R326). -/
theorem length_reencode_le {cap : Nat} {pad r : Bool} {w v : Bytes}
    (h : (if r then b64encChecked cap pad w else .ok w) = Except.ok v) (hw : w.length ≤ cap) : v.length ≤ cap := by
  cases r with
  | false => cases h; exact hw
  | true => exact (b64encChecked_ok h).2.2

/-- The result of `PDEC`'s Post step stays within `CAP` (R326). -/
theorem length_pdecPost_le {cap : Nat} {c : Ctrl} {u r : Bool} {w v : Bytes} (h : pdecPost cap c u r w = .ok v)
    (hw : w.length ≤ cap) : v.length ≤ cap := by
  unfold pdecPost at h
  cases u with
  | false => exact length_reencode_le h hw
  | true =>
    cases hx : utf8Checked w with
    | error e => rw [hx] at h; cases h
    | ok x =>
      rw [hx, (utf8Checked_ok hx).1] at h
      exact length_reencode_le h hw

theorem answer_of_endsAtOnce {i : Instr} {s t : State} (hi : ¬ Sequenced i) (h : exec i s = .next t) :
    Answer i s t := by
  obtain ⟨r, hexec, hallowed⟩ := endsAtOnce hi s
  have hr : retire s (r.map fun c => c.apply s) = .next t := (hexec s.work).symm.trans h
  cases r with
  | error e => cases hr; exact .fault (absurd · hi) e
  | ok c => cases hr; exact .commit hi c (hallowed c rfl)

theorem answer_penc {rd ra : BitVec 2} {s t : State} (h : exec (.penc rd ra) s = .next t) :
    Answer (.penc rd ra) s t := by
  change execPenc rd ra s = .next t at h
  unfold execPenc at h
  split at h
  case h_1 hs => cases h; exact .startEnc rd ra rfl hs
  case h_2 hs => cases h; exact .post hs rd s.work id
  case h_3 => cases h

theorem answer_pdec {rd ra : BitVec 2} {u r : Bool} {s t : State} (h : exec (.pdec rd ra u r) s = .next t) :
    Answer (.pdec rd ra u r) s t := by
  change execPdec rd ra u r s = .next t at h
  unfold execPdec at h
  split at h
  case h_1 hs => cases h; exact .startDec rd ra u r rfl hs
  case h_2 hs =>
    obtain ⟨x, hx, rfl⟩ | ⟨e, _, rfl⟩ := retire_next h
    · obtain ⟨v, hv, rfl⟩ := ok_of_map_eq_ok hx
      exact .post hs rd v (length_pdecPost_le hv)
    · exact .fault (fun _ => hs) e
  case h_3 => cases h

/-- Every next state an instruction answers is one of these. -/
theorem exec_next {i : Instr} {s t : State} (h : exec i s = .next t) : Answer i s t := by
  cases i with
  | penc rd ra => exact answer_penc h
  | pdec rd ra u r => exact answer_pdec h
  | tag1 => exact .stage 0x31#8 t h
  | tag2 => exact .stage 0x32#8 t h
  | tag3 => exact .stage 0x33#8 t h
  | _ => exact answer_of_endsAtOnce id h

/-! ### What no instruction changes -/

/-- The configuration, the command word, the program and the model's own fields are the same. -/
structure KeepsProgram (s t : State) : Prop where
  cfg : t.cfg = s.cfg
  ctrl : t.ctrl = s.ctrl
  cw : t.cw = s.cw
  plen : t.plen = s.plen
  pcfg : t.pcfg = s.pcfg
  pslot : t.pslot = s.pslot
  events : t.events = s.events
  reply : t.reply = s.reply

/-- `SEQ` is the same (10_state.md R31). -/
structure KeepsSeq (s t : State) : Prop where
  sst : t.sst = s.sst
  spc : t.spc = s.spc
  sdir : t.sdir = s.sdir

theorem keepsProgram_apply (c : Commit) (s : State) : KeepsProgram s (c.apply s) := by
  cases c <;> exact ⟨rfl, rfl, rfl, rfl, rfl, rfl, rfl, rfl⟩

theorem keepsSeq_apply (c : Commit) (s : State) : KeepsSeq s (c.apply s) := by
  cases c <;> exact ⟨rfl, rfl, rfl⟩

/-- A Stage step writes `SEQ`, `W` and, on a fault, the flags and the fault record; nothing else (47_pipeline.md R328,
R329, R331). -/
theorem stageStep_frame {g : Byte} {s t : State} (h : stageStep g s = .next t) :
    ∃ status errinfo ecmd sst spc work, t =
      { s with status := status, errinfo := errinfo, ecmd := ecmd, sst := sst, spc := spc, work := work } := by
  obtain ⟨_, ⟨_, rfl⟩ | ⟨_, rfl⟩⟩ := stageStep_next h
  · obtain ⟨_, _, heq⟩ | ⟨_, _, heq⟩ := stageStepEnc_cases g s <;> exact ⟨_, _, _, _, _, _, heq⟩
  · obtain ⟨_, _, heq⟩ | ⟨_, _, heq⟩ := stageStepDec_cases g s <;> exact ⟨_, _, _, _, _, _, heq⟩

theorem Answer.keepsProgram {i : Instr} {s t : State} (h : Answer i s t) : KeepsProgram s t := by
  cases h with
  | commit _ c _ =>
    obtain ⟨hcfg, hctrl, hcw, hplen, hpcfg, hpslot, hevents, hreply⟩ := keepsProgram_apply c s
    exact ⟨hcfg, hctrl, hcw, hplen, hpcfg, hpslot, hevents, hreply⟩
  | stage g _ h =>
    obtain ⟨_, _, _, _, _, _, rfl⟩ := stageStep_frame h
    exact ⟨rfl, rfl, rfl, rfl, rfl, rfl, rfl, rfl⟩
  | fault | startEnc | startDec | post => exact ⟨rfl, rfl, rfl, rfl, rfl, rfl, rfl, rfl⟩

/-- From `IDLE` only the Start steps of `PENC` and `PDEC` change `SEQ`. -/
theorem Answer.keepsSeq {i : Instr} {s t : State} (h : Answer i s t) (hidle : s.sst = .idle)
    (hpenc : ∀ rd ra, i ≠ .penc rd ra) (hpdec : ∀ rd ra u r, i ≠ .pdec rd ra u r) : KeepsSeq s t := by
  cases h with
  | commit _ c _ =>
    obtain ⟨hsst, hspc, hsdir⟩ := keepsSeq_apply c s
    exact ⟨hsst, hspc, hsdir⟩
  | fault _ e => exact ⟨hidle.symm, rfl, rfl⟩
  | startEnc rd ra hi _ => exact absurd hi (hpenc rd ra)
  | startDec rd ra u r hi _ => exact absurd hi (hpdec rd ra u r)
  | post hs => rw [hidle] at hs; cases hs
  | stage g _ h =>
    obtain ⟨hrun, _⟩ := (stageReady_iff s).1 (stageStep_next h).1
    rw [hidle] at hrun
    cases hrun

/-- Settles O56, from the cases of what an instruction answers. -/
theorem programmedKept : Obligations.ProgrammedKept := by
  intro i s t h
  have ha := exec_next h
  obtain ⟨hcfg, hctrl, hcw, hplen, hpcfg, hpslot, hevents, hreply⟩ := ha.keepsProgram
  refine ⟨hcfg, hctrl, hcw, hplen, hpcfg, hpslot, hevents, hreply, fun hidle hpenc hpdec => ?_⟩
  obtain ⟨hsst, hspc, hsdir⟩ := ha.keepsSeq hidle hpenc hpdec
  exact ⟨hsst.trans hidle, hspc, hsdir⟩

end Sys2Proof.Machine

/-! The state after reset (10_state.md R41), and what each update keeps of the invariant. -/

namespace Sys2Proof.Machine

@[simp] theorem stageTag_resetWith (cfg : Config) (i : BitVec 4) : stageTag (State.resetWith cfg) i = 0#8 := by
  simp [stageTag, State.resetWith]

@[simp] theorem stageSlot_resetWith (cfg : Config) (i : BitVec 4) : stageSlot (State.resetWith cfg) i = 0#3 := by
  simp [stageSlot, State.resetWith]

@[simp] theorem seqWord_resetWith (cfg : Config) : seqWord (State.resetWith cfg) = 0#32 := by
  simp [seqWord, State.resetWith, sstCode, dirCode]

@[simp] theorem statusWord_resetWith (cfg : Config) : statusWord (State.resetWith cfg).status = 0#32 := by
  simp [statusWord, State.resetWith]

@[simp] theorem ctrlWord_resetWith (cfg : Config) : ctrlWord (State.resetWith cfg).ctrl = 0x00000820#32 := by
  simp [ctrlWord, State.resetWith]

/-- Settles O8: every register of R41's table, read off the reset state. -/
theorem resetValues : Obligations.ResetValues := by
  refine ⟨rfl, fun cfg => ⟨fun b => ?_, fun k => ?_, rfl, rfl, rfl, rfl, rfl, rfl,
    ctrlWord_resetWith cfg, statusWord_resetWith cfg, rfl, rfl, rfl, seqWord_resetWith cfg, rfl,
    stageTag_resetWith cfg, stageSlot_resetWith cfg, rfl⟩⟩
  · rw [buf_resetWith]; rfl
  · rw [slot_resetWith]; exact ⟨rfl, rfl⟩

/-! ### What the invariant says of a state -/

theorem Inv.sized {s : State} (h : Inv s) : Sized s := ⟨h.cfg.1, h.bufs⟩

theorem Inv.counted {s : State} (h : Inv s) : s.md.Counted := ⟨h.mdBuf, h.mdLen⟩

theorem seqInv_of_idle {s : State} (hs : s.sst = .idle) (hspc : s.spc.toNat ≤ 16) : SeqInv s := by
  unfold SeqInv; rw [hs]; exact hspc

/-- What the invariant says of a busy sequencer. -/
structure SeqActive (s : State) : Prop where
  busy : s.status.busy = true
  fault : s.status.fault = false
  work : s.work.length ≤ s.cfg.cap
  spc : s.spc.toNat ≤ s.plen.toNat
  enc : s.sdir = .enc → (∃ rd ra, decode s.cw = .ok (.penc rd ra)) ∧ (s.sst = .run ↔ s.spc ≠ s.plen)
  dec : s.sdir = .dec → (∃ rd ra u r, decode s.cw = .ok (.pdec rd ra u r)) ∧ (s.sst = .run ↔ s.spc ≠ 0#5)

theorem seqInv_iff_of_active {s : State} (hs : s.sst ≠ .idle) : SeqInv s ↔ SeqActive s := by
  unfold SeqInv
  cases hsst : s.sst with
  | idle => exact absurd hsst hs
  | run | post =>
    constructor
    · rintro ⟨hbusy, hfault, hwork, hspc, hdir⟩
      refine ⟨hbusy, hfault, hwork, hspc, fun hd => ?_, fun hd => ?_⟩ <;> rw [hd] at hdir <;> rwa [hsst]
    · rintro ⟨hbusy, hfault, hwork, hspc, henc, hdec⟩
      refine ⟨hbusy, hfault, hwork, hspc, ?_⟩
      rw [hsst] at henc hdec
      cases hd : s.sdir with
      | enc => exact henc hd
      | dec => exact hdec hd

theorem Inv.active {s : State} (h : Inv s) (hs : s.sst ≠ .idle) : SeqActive s := (seqInv_iff_of_active hs).1 h.seq

/-- The stage pointer is at most 16 in every sequencer state (10_state.md R31). -/
theorem Inv.spc_le {s : State} (h : Inv s) : s.spc.toNat ≤ 16 := by
  by_cases hs : s.sst = .idle
  · have hseq := h.seq
    unfold SeqInv at hseq
    rwa [hs] at hseq
  · exact (h.active hs).spc.trans h.plen

/-- With `BUSY` 0 the sequencer is idle. -/
theorem Inv.idle_of_not_busy {s : State} (h : Inv s) (hb : s.status.busy = false) : s.sst = .idle := by
  by_contra hs
  rw [(h.active hs).busy] at hb
  cases hb

/-- Outside `IDLE` the command in `CW` is the sequencer's. -/
theorem Inv.sequenced_of_active {s : State} (h : Inv s) (hs : s.sst ≠ .idle) {i : Instr} (hd : decode s.cw = .ok i) :
    Sequenced i := by
  cases hdir : s.sdir with
  | enc =>
    obtain ⟨⟨rd, ra, hcw⟩, _⟩ := (h.active hs).enc hdir
    cases hcw.symm.trans hd
    trivial
  | dec =>
    obtain ⟨⟨rd, ra, u, r, hcw⟩, _⟩ := (h.active hs).dec hdir
    cases hcw.symm.trans hd
    trivial

/-- The only command with the opcode byte 0x01 is `ERRCLR` (30_encoding.md R94). -/
theorem eq_errclr_of_opcode {w : Word} {i : Instr} (hop : w.extractLsb' 24 8 = 0x01#8) (hd : decode w = .ok i) :
    i = .errclr := by
  have hz : formatZ (fieldsOf w) .errclr = .ok i := by
    rw [← hd, decode, decodeFields, show (fieldsOf w).op = 0x01#8 from hop]
    rfl
  unfold formatZ at hz
  simp only [bind, Except.bind, pure, Except.pure] at hz
  repeat' split at hz
  all_goals cases hz
  rfl

/-- While a command other than `ERRCLR` executes, `FAULT` is 0 (10_state.md R28). -/
theorem Inv.not_fault_of_command {s : State} (h : Inv s) (hb : s.status.busy = true) {i : Instr}
    (hd : decode s.cw = .ok i) (hi : i ≠ .errclr) : s.status.fault = false := by
  by_contra hf
  exact hi (eq_errclr_of_opcode (h.busyFault hb (by simpa using hf)) hd)

/-! ### The invariant after reset -/

/-- The reset state of a block with a legal `CAP` meets the invariant. -/
theorem inv_resetWith {cfg : Config} (h : cfg.Legal) : Inv (State.resetWith cfg) where
  cfg := h
  bufs b := by rw [buf_resetWith]; exact Nat.zero_le _
  keys k := by rw [slot_resetWith]; exact Nat.zero_le _
  ivs k := by rw [slot_resetWith]; exact Nat.zero_le _
  mdBuf := counted_init.buf
  mdLen := counted_init.len
  plen := Nat.zero_le _
  busyDone h := by cases h
  doneFault h := by cases h
  busyFault h := by cases h
  record _ := ⟨rfl, rfl, rfl⟩
  code h := by cases h
  seq := seqInv_of_idle rfl (Nat.zero_le _)

/-- Settles O10. -/
theorem invReset : Obligations.InvReset :=
  ⟨inv_resetWith (by decide), fun _ => inv_resetWith⟩

/-! ### One rule per update of the state -/

/-- The model's own fields, the configuration bits, the tags and the slots of the program have no part in it. -/
theorem Inv.of_free {s : State} (h : Inv s) (ctrl : Ctrl) (pcfg : Vector Byte 16) (pslot : Vector (BitVec 3) 16)
    (events : List HostEvent) (reply : Option BusReply) :
    Inv { s with ctrl := ctrl, pcfg := pcfg, pslot := pslot, events := events, reply := reply } :=
  ⟨h.cfg, h.bufs, h.keys, h.ivs, h.mdBuf, h.mdLen, h.plen, h.busyDone, h.doneFault, h.busyFault, h.record, h.code, h.seq⟩

theorem Inv.withEvents {s : State} (h : Inv s) (events : List HostEvent) : Inv { s with events := events } :=
  h.of_free s.ctrl s.pcfg s.pslot events s.reply

theorem Inv.withReply {s : State} (h : Inv s) (reply : Option BusReply) : Inv { s with reply := reply } :=
  h.of_free s.ctrl s.pcfg s.pslot s.events reply

theorem Inv.setBuf {s : State} (h : Inv s) (b : BitVec 2) {v : Bytes} (hv : v.length ≤ s.cfg.cap) :
    Inv (setBuf b v s) :=
  { h with
    bufs := fun c => by
      rw [buf_setBuf]
      split
      · exact hv
      · exact h.bufs c }

theorem Inv.setKey {s : State} (h : Inv s) (k : BitVec 3) {v : Bytes} (hv : v.length ≤ 24) : Inv (setKey k v s) :=
  { h with
    keys := fun j => by
      rw [slot_setKey]
      split
      · exact hv
      · exact h.keys j
    ivs := fun j => by
      rw [slot_setKey]
      split
      · exact h.ivs k
      · exact h.ivs j }

theorem Inv.setIv {s : State} (h : Inv s) (k : BitVec 3) {v : Bytes} (hv : v.length ≤ 16) : Inv (setIv k v s) :=
  { h with
    keys := fun j => by
      rw [slot_setIv]
      split
      · exact h.keys k
      · exact h.keys j
    ivs := fun j => by
      rw [slot_setIv]
      split
      · exact hv
      · exact h.ivs j }

theorem Inv.withMd {s : State} (h : Inv s) {m : Md5Ctx} (hm : m.Counted) : Inv { s with md := m } :=
  { h with mdBuf := hm.buf, mdLen := hm.len }

/-- The sequencer may stop in every state, at any stage pointer of a program (47_pipeline.md R330, R331). -/
theorem Inv.stopped {s : State} (h : Inv s) {spc : BitVec 5} (hspc : spc.toNat ≤ 16) :
    Inv { s with sst := .idle, spc := spc, work := [] } :=
  { h with seq := seqInv_of_idle rfl hspc }

/-- A step of the sequencer that leaves it active. -/
theorem Inv.withSeq {s : State} (h : Inv s) {sst : Sst} {spc : BitVec 5} {sdir : Dir} {work : Bytes}
    (hs : sst ≠ .idle) (ha : SeqActive { s with sst := sst, spc := spc, sdir := sdir, work := work }) :
    Inv { s with sst := sst, spc := spc, sdir := sdir, work := work } :=
  { h with seq := (seqInv_iff_of_active hs).2 ha }

/-- The flags of a commit (R120), with no fault recorded and the sequencer idle. -/
theorem Inv.complete {s : State} (h : Inv s) (hf : s.status.fault = false) (hs : s.sst = .idle) : Inv (complete s) :=
  { h with
    busyDone := fun hb => by cases hb
    doneFault := fun _ => hf
    busyFault := fun hb => by cases hb
    seq := seqInv_of_idle hs h.spc_le }

/-- Fault entry (60_exceptions.md R364) of a command in execution. -/
theorem Inv.takeFault {s : State} (h : Inv s) (hb : s.status.busy = true) (e : Raise) (g : Option (BitVec 5)) :
    Inv (takeFault e g s) :=
  { h with
    busyDone := fun hb' => by cases hb'
    doneFault := fun hd => by rw [takeFault_status, statusFaulted, h.busyDone hb] at hd; cases hd
    busyFault := fun hb' => by cases hb'
    record := fun hf => by cases hf
    code := fun _ => raiseCode_range e
    seq := seqInv_of_idle rfl h.spc_le }

/-- The fault record is cleared while the sequencer is idle (R122). -/
theorem Inv.clearFault {s : State} (h : Inv s) (hs : s.sst = .idle) : Inv (clearFault s) :=
  { h with
    doneFault := fun _ => rfl
    busyFault := fun _ hf => by cases hf
    record := fun _ => ⟨rfl, rfl, rfl⟩
    code := fun hf => by cases hf
    seq := seqInv_of_idle hs h.spc_le }

/-- A dropped write touches `OVR` only (R70, R71). -/
theorem Inv.dropWrite {s : State} (h : Inv s) : Inv (dropWrite s) :=
  ⟨h.cfg, h.bufs, h.keys, h.ivs, h.mdBuf, h.mdLen, h.plen, h.busyDone, h.doneFault, h.busyFault, h.record, h.code, h.seq⟩

/-- An accepted `CMD` write (10_state.md R28): while `FAULT` is 1 its opcode byte is that of `ERRCLR`. -/
theorem Inv.issue {s : State} (h : Inv s) (hb : s.status.busy = false) {v : Word}
    (hv : s.status.fault = true → v.extractLsb' 24 8 = 0x01#8) : Inv (issue v s) :=
  { h with
    busyDone := fun _ => rfl
    doneFault := fun hd => by cases hd
    busyFault := fun _ => hv
    seq := seqInv_of_idle (h.idle_of_not_busy hb) h.spc_le }

end Sys2Proof.Machine

/-! Every step keeps the invariant: the host's transactions, the commands, and the sequencer's steps. -/

namespace Sys2Proof.Machine

/-! ### The host's transactions -/

theorem Inv.resetBlock {s : State} (h : Inv s) : Inv (resetBlock s) :=
  ((inv_resetWith h.cfg).withEvents s.events).withReply s.reply

theorem Inv.writeCmd {s : State} (h : Inv s) (hb : s.status.busy = false) (v : Word) : Inv (writeCmd v s) := by
  unfold Machine.writeCmd
  split
  · exact h.dropWrite
  · rename_i haccepted
    exact h.issue hb fun hf => by_contra fun hop => haccepted ⟨hf, hop⟩

/-- A `PLEN` write stores at most 16 (10_state.md R32); the sequencer is idle. -/
theorem Inv.writePlen {s : State} (h : Inv s) (hb : s.status.busy = false) (v : Word) : Inv (writePlen v s) := by
  simp only [Machine.writePlen]
  split
  · exact h
  · exact { h with plen := Nat.le_of_not_gt ‹_›, seq := seqInv_of_idle (h.idle_of_not_busy hb) h.spc_le }

/-- A `STATUS` write clears `DONE` and `OVR` only (10_state.md R27). -/
theorem Inv.writeStatus {s : State} (h : Inv s) (hb : s.status.busy = false) (v : Word) :
    Inv { s with status := statusWriteOneToClear v s.status } :=
  { h with
    busyDone := fun hb' => by rw [statusWriteOneToClear, hb] at hb'; cases hb'
    doneFault := fun hd => h.doneFault ((Bool.and_eq_true_iff.1 hd).1)
    seq := seqInv_of_idle (h.idle_of_not_busy hb) h.spc_le }

/-- The write of byte lane `j` of `v`, to tag `4r + j` (R33). -/
def setTagLane (r : BitVec 2) (v : Word) (s : State) (j : BitVec 2) : State :=
  setStageTag (r ++ j) (lane v j) s

theorem setPcfgWord_eq_foldl (r : BitVec 2) (v : Word) (s : State) :
    setPcfgWord r v s = [0#2, 1#2, 2#2, 3#2].foldl (setTagLane r v) s := rfl

theorem foldl_setTagLane_frame (r : BitVec 2) (v : Word) (js : List (BitVec 2)) (s : State) :
    ∃ p, js.foldl (setTagLane r v) s = { s with pcfg := p } := by
  induction js generalizing s with
  | nil => exact ⟨s.pcfg, rfl⟩
  | cons j js ih =>
    obtain ⟨p, hp⟩ := ih (setTagLane r v s j)
    exact ⟨p, hp⟩

/-- A `PCFGr` write changes the tags only. -/
theorem setPcfgWord_frame (r : BitVec 2) (v : Word) (s : State) : ∃ p, setPcfgWord r v s = { s with pcfg := p } :=
  foldl_setTagLane_frame r v [0#2, 1#2, 2#2, 3#2] s

theorem foldl_setSlotNibble_frame (r : BitVec 1) (v : Word) (js : List (BitVec 3)) (s : State) :
    ∃ p, js.foldl (setSlotNibble r v) s = { s with pslot := p } := by
  induction js generalizing s with
  | nil => exact ⟨s.pslot, rfl⟩
  | cons j js ih =>
    obtain ⟨p, hp⟩ := ih (setSlotNibble r v s j)
    exact ⟨p, hp⟩

/-- A `PSLOTr` write changes the slots of the program only. -/
theorem setPslotWord_frame (r : BitVec 1) (v : Word) (s : State) : ∃ p, setPslotWord r v s = { s with pslot := p } :=
  foldl_setSlotNibble_frame r v _ s

/-- An accepted register write, with `BUSY` 0. -/
theorem Inv.writeReg {s : State} (h : Inv s) (hb : s.status.busy = false) (v : Word) (r : HostReg) :
    Inv (writeReg v s r) := by
  cases r with
  | ctrl => exact h.of_free (ctrlOfWord v) s.pcfg s.pslot s.events s.reply
  | status => exact h.writeStatus hb v
  | cmd => exact h.writeCmd hb v
  | blen b => exact h.setBuf b (length_resizeBuf_le _ (h.bufs b))
  | plen => exact h.writePlen hb v
  | pcfg r =>
    obtain ⟨p, hp⟩ := setPcfgWord_frame r v s
    show Inv (setPcfgWord r v s)
    rw [hp]
    exact h.of_free s.ctrl p s.pslot s.events s.reply
  | pslot r =>
    obtain ⟨p, hp⟩ := setPslotWord_frame r v s
    show Inv (setPslotWord r v s)
    rw [hp]
    exact h.of_free s.ctrl s.pcfg p s.events s.reply
  | window b o => exact h.setBuf b ((length_windowWrite v o _).trans_le (h.bufs b))
  | id | param0 | param1 | errinfo | ecmd | seq | md5h | md5lenl | md5lenh | md5cnt => exact h

theorem Inv.writeMapped {s : State} (h : Inv s) (v : Word) (r : HostReg) : Inv (writeMapped v r s) := by
  obtain ⟨_, _, heq⟩ | ⟨_, heq⟩ | ⟨hb, heq⟩ := writeMapped_cases v r s <;> rw [heq]
  · exact h.resetBlock
  · exact h.dropWrite
  · exact h.writeReg hb v r

/-- A host write reaches a mapped place, or is refused with `ERROR` (20_memory.md R62, R68). -/
theorem hostWrite_cases (width : Nat) (addr : BitVec 20) (v : Word) (s : State) :
    (∃ r, target width addr s = some r ∧
      hostWrite width addr v s = { writeMapped v r s with reply := some ⟨.okay, none⟩ }) ∨
    (target width addr s = none ∧ hostWrite width addr v s = { s with reply := some ⟨.error, none⟩ }) := by
  unfold hostWrite
  cases target width addr s with
  | none => exact .inr ⟨rfl, rfl⟩
  | some r => exact .inl ⟨r, rfl, rfl⟩

theorem Inv.hostWrite {s : State} (h : Inv s) (width : Nat) (addr : BitVec 20) (v : Word) :
    Inv (hostWrite width addr v s) := by
  obtain ⟨r, _, heq⟩ | ⟨_, heq⟩ := hostWrite_cases width addr v s <;> rw [heq]
  · exact (h.writeMapped v r).withReply _
  · exact h.withReply _

/-! ### Commands -/

/-- Storing an allowed commit keeps the invariant, the sequencer being idle. -/
theorem Inv.apply {s : State} (h : Inv s) (hs : s.sst = .idle) {i : Instr} {c : Commit} (hc : c.Allowed i s) :
    Inv (c.apply s) := by
  cases c with
  | nothing => exact h
  | record => exact h.clearFault hs
  | buffer rd v => exact h.setBuf rd (hc h.sized)
  | key kd v => exact h.setKey kd hc.2
  | iv kd v => exact h.setIv kd hc.2
  | context m => exact h.withMd (hc.2 h.counted)
  | digest rd v =>
    have hcap : 32 ≤ s.cfg.cap := Nat.le_trans (by decide) h.cfg.1
    exact (h.withMd counted_init).setBuf rd (hc.2.trans hcap)

/-- No commit records a fault. -/
theorem Commit.apply_not_fault {s : State} (c : Commit) (hf : s.status.fault = false) :
    (c.apply s).status.fault = false := by
  cases c with
  | record => rfl
  | nothing | buffer | key | iv | context | digest => exact hf

/-- The commit of a command in execution, which leaves no fault recorded. -/
theorem Inv.commit {s : State} (h : Inv s) {i : Instr} (hd : decode s.cw = .ok i) (hi : ¬ Sequenced i) {c : Commit}
    (hc : c.Allowed i s) (hf : (c.apply s).status.fault = false) : Inv (Machine.complete (c.apply s)) := by
  have hs : s.sst = .idle := by_contra fun hs => hi (h.sequenced_of_active hs hd)
  exact (h.apply hs hc).complete hf ((keepsSeq_apply c s).sst.trans hs)

/-! ### The sequencer -/

/-- `POST` once the last stage is done, else `RUN`: the choice of the Start and the Stage steps (R328, R329). -/
theorem postOrRun_eq_run_iff {p : Prop} [Decidable p] : (if p then Sst.post else .run) = .run ↔ ¬ p := by
  by_cases hp : p <;> simp [hp]

theorem postOrRun_ne_idle {p : Prop} [Decidable p] : (if p then Sst.post else .run) ≠ .idle := by
  by_cases hp : p <;> simp [hp]

/-- The Start step of `PENC` (47_pipeline.md R328). -/
theorem Inv.startEnc {s : State} (h : Inv s) (hb : s.status.busy = true) {rd ra : BitVec 2}
    (hd : decode s.cw = .ok (.penc rd ra)) : Inv (startStep ra 0#5 .enc s) := by
  have hf := h.not_fault_of_command hb hd (by simp)
  exact h.withSeq postOrRun_ne_idle
    ⟨hb, hf, h.bufs ra, Nat.zero_le _, fun _ => ⟨⟨rd, ra, hd⟩, postOrRun_eq_run_iff.trans ne_comm⟩, nofun⟩

/-- The Start step of `PDEC` (47_pipeline.md R329). -/
theorem Inv.startDec {s : State} (h : Inv s) (hb : s.status.busy = true) {rd ra : BitVec 2} {u r : Bool}
    (hd : decode s.cw = .ok (.pdec rd ra u r)) : Inv (startStep ra s.plen .dec s) := by
  have hf := h.not_fault_of_command hb hd (by simp)
  exact h.withSeq postOrRun_ne_idle
    ⟨hb, hf, h.bufs ra, le_rfl, nofun, fun _ => ⟨⟨rd, ra, u, r, hd⟩, postOrRun_eq_run_iff⟩⟩

/-- The Post step (47_pipeline.md R330). -/
theorem Inv.post {s : State} (h : Inv s) (hs : s.sst = .post) (rd : BitVec 2) {v : Bytes}
    (hv : s.work.length ≤ s.cfg.cap → v.length ≤ s.cfg.cap) : Inv (Machine.complete (postCommit rd v s)) := by
  have ha := h.active (by rw [hs]; simp)
  exact ((h.stopped h.spc_le).setBuf rd (hv ha.work)).complete ha.fault rfl

/-- The Stage step of `PENC` (47_pipeline.md R328). -/
theorem Inv.stageStepEnc {s : State} (h : Inv s) (hs : s.sst = .run) (hdir : s.sdir = .enc)
    (hspc : s.spc.toNat < s.plen.toNat) (g : Byte) : Inv (stageStepEnc g s) := by
  have ha := h.active (by rw [hs]; simp)
  have hplen := h.plen
  obtain ⟨w, hw, heq⟩ | ⟨e, _, heq⟩ := stageStepEnc_cases g s <;> rw [heq]
  · have hnext : (s.spc + 1#5).toNat ≤ s.plen.toNat := by bv_omega
    exact h.withSeq (sdir := s.sdir) postOrRun_ne_idle
      ⟨ha.busy, ha.fault, length_stageEnc_le hw, hnext, fun _ => ⟨(ha.enc hdir).1, postOrRun_eq_run_iff⟩,
        fun hdir' => absurd (hdir.symm.trans hdir') (by simp)⟩
  · exact h.takeFault ha.busy e _

/-- The Stage step of `PDEC` (47_pipeline.md R329); a fault keeps the decremented `SPC`. -/
theorem Inv.stageStepDec {s : State} (h : Inv s) (hs : s.sst = .run) (hdir : s.sdir = .dec)
    (hspc : 0 < s.spc.toNat) (g : Byte) : Inv (stageStepDec g s) := by
  have ha := h.active (by rw [hs]; simp)
  have hnext : (s.spc - 1#5).toNat ≤ s.spc.toNat := by bv_omega
  obtain ⟨w, hw, heq⟩ | ⟨e, _, heq⟩ := stageStepDec_cases g s <;> rw [heq]
  · exact h.withSeq (sdir := s.sdir) postOrRun_ne_idle
      ⟨ha.busy, ha.fault, (length_stageDec_le hw).trans ha.work, hnext.trans ha.spc,
        fun hdir' => absurd (hdir.symm.trans hdir') (by simp), fun _ => ⟨(ha.dec hdir).1, postOrRun_eq_run_iff⟩⟩
  · exact (h.stopped (hnext.trans h.spc_le)).takeFault ha.busy e _

theorem Inv.stageStep {s t : State} (h : Inv s) {g : Byte} (hstep : stageStep g s = .next t) : Inv t := by
  obtain ⟨hready, hcase⟩ := stageStep_next hstep
  obtain ⟨hs, hspc⟩ := (stageReady_iff s).1 hready
  obtain ⟨hdir, rfl⟩ | ⟨hdir, rfl⟩ := hcase
  · obtain ⟨_, hlt⟩ | ⟨hdir', _⟩ := hspc
    · exact h.stageStepEnc hs hdir hlt g
    · rw [hdir] at hdir'; cases hdir'
  · obtain ⟨hdir', _⟩ | ⟨_, hpos⟩ := hspc
    · rw [hdir] at hdir'; cases hdir'
    · exact h.stageStepDec hs hdir hpos g

/-! ### The step -/

/-- The command in `CW` keeps the invariant. -/
theorem Inv.exec {s t : State} (h : Inv s) (hb : s.status.busy = true) {i : Instr} (hd : decode s.cw = .ok i)
    (hexec : exec i s = .next t) : Inv t := by
  by_cases he : i = .errclr
  · subst he
    cases hexec
    exact h.commit hd id (c := .record) rfl rfl
  · cases exec_next hexec with
    | commit hi c hc => exact h.commit hd hi hc (c.apply_not_fault (h.not_fault_of_command hb hd he))
    | fault _ e => exact h.takeFault hb e none
    | startEnc rd ra hi _ => exact h.startEnc hb (hd.trans (congrArg _ hi))
    | startDec rd ra u r hi _ => exact h.startDec hb (hd.trans (congrArg _ hi))
    | post hs rd v hv => exact h.post hs rd hv
    | stage g _ hstage => exact h.stageStep hstage

theorem Inv.coreStep {s t : State} (h : Inv s) (hstep : coreStep s = .next t) : Inv t := by
  obtain ⟨_, heq⟩ | ⟨hb, _, i, hd, heq⟩ | ⟨hb, _, _, heq⟩ | ⟨_, _, heq⟩ := coreStep_cases s <;> rw [heq] at hstep
  · cases hstep; exact h
  · exact h.exec hb hd hstep
  · cases hstep; exact h.takeFault hb .illegal none
  · exact h.stageStep hstep

/-- Settles O11: each event keeps the invariant. -/
theorem invStep : Obligations.InvStep := by
  intro s t h hstep
  obtain ⟨_, heq⟩ | ⟨rest, _, heq⟩ | ⟨width, addr, rest, _, heq⟩ | ⟨width, addr, v, rest, _, heq⟩ | ⟨rest, _, heq⟩ :=
    step_cases s <;> rw [heq] at hstep
  · exact h.coreStep hstep
  · exact (h.withEvents rest).coreStep hstep
  · cases hstep; exact (h.withEvents rest).withReply _
  · cases hstep; exact (h.withEvents rest).hostWrite width addr v
  · cases hstep; exact (h.withEvents rest).resetBlock

end Sys2Proof.Machine

/-! The host's side at the bus: a transaction at a mapped place is the register's own read or write (20_memory.md R60, R61,
R69 to R71). -/

namespace Sys2Proof.Machine

theorem onEvent_write (width : Nat) (addr : BitVec 20) (v : Word) (s : State) :
    onEvent (.write width addr v) s = .next (hostWrite width addr v s) := rfl

theorem onEvent_read (width : Nat) (addr : BitVec 20) (s : State) :
    onEvent (.read width addr) s = .next (hostRead width addr s) := rfl

/-- A write at a mapped place. -/
theorem writes_of_target {s : State} {addr : BitVec 20} {r : HostReg} (h : target 32 addr s = some r) (v : Word) :
    Writes s addr v (writeMapped v r s) := by
  rw [Writes, onEvent_write, hostWrite, h]

/-- A read at a mapped place. -/
theorem reads_of_target {s : State} {addr : BitVec 20} {r : HostReg} (h : target 32 addr s = some r) :
    Reads s addr (readReg s r) := by
  rw [Reads, onEvent_read, hostRead, readReply, h]

/-- With `BUSY` 0 a write that is no soft reset is the register's own (R69, R70). -/
theorem writes_of_not_busy {s : State} {addr : BitVec 20} {r : HostReg} (h : target 32 addr s = some r)
    (hb : s.status.busy = false) (v : Word) (hr : r = .ctrl → v.getLsbD 0 = false) :
    Writes s addr v (writeReg v s r) := by
  have hw := writes_of_target h v
  rwa [writeMapped, if_neg (fun hsr => by rw [hr hsr.1] at hsr; cases hsr.2), if_neg (by simp [hb])] at hw

theorem target_ctrl (s : State) : target 32 0x00010#20 s = some .ctrl := by simp [target, hostReg]
theorem target_status (s : State) : target 32 0x00014#20 s = some .status := by simp [target, hostReg]
theorem target_cmd (s : State) : target 32 0x00018#20 s = some .cmd := by simp [target, hostReg]
theorem target_plen (s : State) : target 32 0x00060#20 s = some .plen := by simp [target, hostReg]

theorem target_pcfg (s : State) {r : Nat} (hr : r < 4) :
    target 32 (BitVec.ofNat 20 (0x64 + 4 * r)) s = some (.pcfg (BitVec.ofNat 2 r)) := by
  interval_cases r <;> simp [target, hostReg]

theorem target_pslot (s : State) {r : Nat} (hr : r < 2) :
    target 32 (BitVec.ofNat 20 (0x74 + 4 * r)) s = some (.pslot (BitVec.ofNat 1 r)) := by
  interval_cases r <;> simp [target, hostReg]

/-- The offsets of R61's read-only registers are mapped, to registers a write leaves alone. -/
theorem target_readOnly (s : State) {addr : BitVec 20}
    (h : addr.toNat ∈ [0x00, 0x04, 0x08, 0x1C, 0x20, 0x24, 0x40, 0x44, 0x48, 0x4C, 0x50, 0x54, 0x58]) :
    ∃ r, target 32 addr s = some r ∧ r ≠ .ctrl ∧ ∀ v, writeReg v s r = s := by
  simp only [List.mem_cons, List.not_mem_nil, or_false] at h
  rcases h with h | h | h | h | h | h | h | h | h | h | h | h | h <;>
    exact ⟨_, by simp only [target, hostReg, h]; rfl, by simp, fun _ => rfl⟩

/-! ### `CMD` -/

/-- Settles O15: the interlock (R70) and the fault (R71) drop the word, else it is latched (10_state.md R28). -/
theorem cmdWrite : Obligations.CmdWrite := by
  intro s v
  refine ⟨fun ⟨hb, hacc⟩ => ?_, fun hdrop => ?_, reads_of_target (target_cmd s)⟩
  · have hw := writes_of_not_busy (target_cmd s) hb v (by simp)
    rwa [writeReg, writeCmd, if_neg (fun ⟨hf, hop⟩ => hacc.elim (by simp [hf]) hop)] at hw
  · have hw := writes_of_target (target_cmd s) v
    have hd : writeMapped v .cmd s = dropWrite s := by
      obtain ⟨hr, _⟩ | ⟨_, heq⟩ | ⟨hb, heq⟩ := writeMapped_cases v .cmd s
      · cases hr
      · exact heq
      · obtain ⟨hf, hop⟩ := not_or.1 fun hacc => hdrop ⟨hb, hacc⟩
        rw [heq, writeReg, writeCmd, if_pos ⟨by simpa using hf, hop⟩]
    rwa [hd] at hw

/-- A block with the fault of an illegal word recorded, and an `ERRCLR` about to be written. -/
def errclrPending : State :=
  { takeFault .illegal none (issue 0x02000000#32 State.reset) with events := [.write 32 0x00018#20 0x01000000#32] }

theorem inv_errclrPending : Inv errclrPending :=
  (((invReset.1.issue rfl nofun).takeFault rfl .illegal none).withEvents _)

/-- Refutes O59: the `CMD` write that issues `ERRCLR` sets `BUSY` while `FAULT` is 1 (10_state.md R28). -/
theorem not_busyFaultExclusive : ¬ Obligations.BusyFaultExclusive := by
  intro h
  have hstep := (cmdWrite (takeFault .illegal none (issue 0x02000000#32 State.reset)) 0x01000000#32).1 ⟨rfl, .inr rfl⟩
  exact h errclrPending _ inv_errclrPending (by simp [errclrPending, statusFaulted]) hstep ⟨rfl, rfl⟩

/-! ### `CTRL`, `STATUS`, `irq` and the read-only registers -/

/-- `CTRL` reads back the five bits written, its reserved bits 0 and `CHRSZ` 8 (10_state.md R26). -/
theorem ctrlWord_ctrlOfWord (v : Word) : ctrlWord (ctrlOfWord v) = (v &&& 0x00000076#32) ||| 0x00000800#32 := by
  apply BitVec.eq_of_getLsbD_eq
  intro i hi
  simp only [ctrlWord, ctrlOfWord, BitVec.getLsbD_append, BitVec.getLsbD_ofBool, BitVec.getLsbD_or, BitVec.getLsbD_and]
  interval_cases i <;> simp

theorem irq_iff (s : State) : irq s = true ↔
    (s.ctrl.ieDone = true ∧ s.status.done = true) ∨ (s.ctrl.ieErr = true ∧ s.status.fault = true) := by
  simp [irq]

/-- With `BUSY` 0 a `STATUS` write clears `DONE` and `OVR` where a 1 is written (10_state.md R27). -/
theorem statusWriteOneToClear_of_not_busy {st : Status} (hb : st.busy = false) (v : Word) :
    statusWriteOneToClear v st = ⟨false, if v.getLsbD 1 then false else st.done, st.fault,
      if v.getLsbD 3 then false else st.ovr, st.err⟩ := by
  rw [statusWriteOneToClear, hb]
  cases v.getLsbD 1 <;> cases v.getLsbD 3 <;> simp

/-- Settles O17. -/
theorem registerWrites : Obligations.RegisterWrites := by
  refine ⟨irq_iff, fun s v hb => ⟨fun hv => ⟨?_, ?_⟩, ?_, fun addr haddr => ?_⟩⟩
  · exact writes_of_not_busy (target_ctrl s) hb v fun _ => hv
  · rw [← ctrlWord_ctrlOfWord]
    exact reads_of_target (target_ctrl _)
  · rw [← statusWriteOneToClear_of_not_busy hb v]
    exact writes_of_not_busy (target_status s) hb v (by simp)
  · obtain ⟨r, htarget, hctrl, hkeeps⟩ := target_readOnly s haddr
    have hw := writes_of_not_busy htarget hb v fun h => absurd h hctrl
    rwa [hkeeps] at hw

end Sys2Proof.Machine

/-! The pipeline program (10_state.md R32, R33, R34): what a write to `PLEN`, `PCFGr` and `PSLOTr` leaves in each entry. -/

namespace Sys2Proof.Machine

/-- A `PLEN` write stores 0 to 16 of bits 4:0 (R32). -/
theorem writePlen_eq (v : Word) (s : State) :
    writePlen v s = if v.toNat % 32 ≤ 16 then { s with plen := BitVec.ofNat 5 (v.toNat % 32) } else s := by
  have hn : v.extractLsb' 0 5 = BitVec.ofNat 5 (v.toNat % 32) := by
    apply BitVec.eq_of_toNat_eq; simp
  have hval : (v.extractLsb' 0 5).toNat = v.toNat % 32 := by simp
  unfold writePlen
  by_cases hle : v.toNat % 32 ≤ 16
  · rw [if_pos hle, if_neg (by omega), hn]
  · rw [if_neg hle, if_pos (by omega)]

/-- Two indices made of a register number and a place in the register agree only if both parts do. -/
theorem append_eq_append_iff {m n : Nat} {q r : BitVec m} {j k : BitVec n} : q ++ j = r ++ k ↔ q = r ∧ j = k := by
  refine ⟨fun h => ⟨?_, ?_⟩, fun ⟨hq, hj⟩ => by rw [hq, hj]⟩
  · simpa only [BitVec.extractLsb'_append_eq_left] using congrArg (BitVec.extractLsb' n m) h
  · simpa only [BitVec.extractLsb'_append_eq_right] using congrArg (BitVec.extractLsb' 0 n) h

/-! ### `PCFGr` -/

theorem stageTag_foldl_setTagLane (r q : BitVec 2) (v : Word) (j : BitVec 2) (js : List (BitVec 2)) (s : State) :
    stageTag (js.foldl (setTagLane r v) s) (q ++ j) = if q = r ∧ j ∈ js then lane v j else stageTag s (q ++ j) := by
  induction js generalizing s with
  | nil => simp
  | cons k js ih =>
    rw [List.foldl_cons, ih]
    by_cases hmem : q = r ∧ j ∈ js
    · rw [if_pos hmem, if_pos ⟨hmem.1, List.mem_cons_of_mem k hmem.2⟩]
    · rw [if_neg hmem, setTagLane]
      by_cases hk : q ++ j = r ++ k
      · obtain ⟨rfl, rfl⟩ := append_eq_append_iff.1 hk
        simp
      · rw [stageTag_setStageTag_of_ne _ _ hk, if_neg]
        rintro ⟨rfl, hj⟩
        obtain rfl | hj := List.mem_cons.1 hj
        · exact hk rfl
        · exact hmem ⟨rfl, hj⟩

/-- The tags after a `PCFGr` write: the register's four, and the others as before. -/
theorem stageTag_setPcfgWord (r q j : BitVec 2) (v : Word) (s : State) :
    stageTag (setPcfgWord r v s) (q ++ j) = if q = r then lane v j else stageTag s (q ++ j) := by
  have hj : j ∈ [0#2, 1#2, 2#2, 3#2] := by revert j; decide
  rw [setPcfgWord_eq_foldl, stageTag_foldl_setTagLane]
  simp only [hj, and_true]

theorem toNat_lane (v : Word) {j : Nat} (hj : j < 4) :
    (lane v (BitVec.ofNat 2 j)).toNat = v.toNat / 256 ^ (3 - j) % 256 := by
  interval_cases j <;> simp [lane, Nat.shiftRight_eq_div_pow]

/-! ### `PSLOTr` -/

theorem stageSlot_foldl_setSlotNibble (r q : BitVec 1) (v : Word) (j : BitVec 3) (js : List (BitVec 3)) (s : State) :
    stageSlot (js.foldl (setSlotNibble r v) s) (q ++ j) =
      if q = r ∧ j ∈ js then v.extractLsb' (4 * j.toNat) 3 else stageSlot s (q ++ j) := by
  induction js generalizing s with
  | nil => simp
  | cons k js ih =>
    rw [List.foldl_cons, ih]
    by_cases hmem : q = r ∧ j ∈ js
    · rw [if_pos hmem, if_pos ⟨hmem.1, List.mem_cons_of_mem k hmem.2⟩]
    · rw [if_neg hmem, setSlotNibble]
      by_cases hk : q ++ j = r ++ k
      · obtain ⟨rfl, rfl⟩ := append_eq_append_iff.1 hk
        simp
      · rw [stageSlot_setStageSlot_of_ne _ _ hk, if_neg]
        rintro ⟨rfl, hj⟩
        obtain rfl | hj := List.mem_cons.1 hj
        · exact hk rfl
        · exact hmem ⟨rfl, hj⟩

/-- The slots after a `PSLOTr` write: the register's eight, and the others as before. -/
theorem stageSlot_setPslotWord (r q : BitVec 1) (j : BitVec 3) (v : Word) (s : State) :
    stageSlot (setPslotWord r v s) (q ++ j) = if q = r then v.extractLsb' (4 * j.toNat) 3 else stageSlot s (q ++ j) := by
  have hj : j ∈ [0#3, 1#3, 2#3, 3#3, 4#3, 5#3, 6#3, 7#3] := by revert j; decide
  rw [setPslotWord, stageSlot_foldl_setSlotNibble]
  simp only [hj, and_true]

theorem toNat_slotNibble (v : Word) (j : Nat) :
    (v.extractLsb' (4 * j) 3).toNat = v.toNat / 16 ^ j % 8 := by
  rw [BitVec.extractLsb'_toNat, Nat.shiftRight_eq_div_pow, pow_mul]
  norm_num

/-! ### The three registers -/

theorem ofNat_eq_append_pcfg {i : Nat} (hi : i < 16) :
    BitVec.ofNat 4 i = BitVec.ofNat 2 (i / 4) ++ BitVec.ofNat 2 (i % 4) := by
  revert i; decide

theorem ofNat_eq_append_pslot {i : Nat} (hi : i < 16) :
    BitVec.ofNat 4 i = BitVec.ofNat 1 (i / 8) ++ BitVec.ofNat 3 (i % 8) := by
  revert i; decide

theorem ofNat_eq_ofNat_iff {w a b : Nat} (ha : a < 2 ^ w) (hb : b < 2 ^ w) :
    BitVec.ofNat w a = BitVec.ofNat w b ↔ a = b := by
  rw [← BitVec.toNat_inj, BitVec.toNat_ofNat, BitVec.toNat_ofNat, Nat.mod_eq_of_lt ha, Nat.mod_eq_of_lt hb]

theorem pcfgWrite (s : State) (v : Word) (hb : s.status.busy = false) {r : Nat} (hr : r < 4) :
    ∃ t, Writes s (BitVec.ofNat 20 (0x64 + 4 * r)) v t ∧ { t with pcfg := s.pcfg } = s ∧
      ∀ i : Nat, i < 16 → (stageTag t (BitVec.ofNat 4 i)).toNat =
        if i / 4 = r then v.toNat / 256 ^ (3 - i % 4) % 256 else (stageTag s (BitVec.ofNat 4 i)).toNat := by
  refine ⟨setPcfgWord (BitVec.ofNat 2 r) v s, writes_of_not_busy (target_pcfg s hr) hb v nofun, ?_, fun i hi => ?_⟩
  · obtain ⟨p, hp⟩ := setPcfgWord_frame (BitVec.ofNat 2 r) v s
    rw [hp]
  · rw [ofNat_eq_append_pcfg hi, stageTag_setPcfgWord]
    simp only [ofNat_eq_ofNat_iff (w := 2) (a := i / 4) (b := r) (by omega) hr]
    split
    · exact toNat_lane v (Nat.mod_lt i (by decide))
    · rfl

theorem pslotWrite (s : State) (v : Word) (hb : s.status.busy = false) {r : Nat} (hr : r < 2) :
    ∃ t, Writes s (BitVec.ofNat 20 (0x74 + 4 * r)) v t ∧ { t with pslot := s.pslot } = s ∧
      ∀ i : Nat, i < 16 → (stageSlot t (BitVec.ofNat 4 i)).toNat =
        if i / 8 = r then v.toNat / 16 ^ (i % 8) % 8 else (stageSlot s (BitVec.ofNat 4 i)).toNat := by
  refine ⟨setPslotWord (BitVec.ofNat 1 r) v s, writes_of_not_busy (target_pslot s hr) hb v nofun, ?_, fun i hi => ?_⟩
  · obtain ⟨p, hp⟩ := setPslotWord_frame (BitVec.ofNat 1 r) v s
    rw [hp]
  · have hj : (BitVec.ofNat 3 (i % 8)).toNat = i % 8 := by rw [BitVec.toNat_ofNat]; omega
    rw [ofNat_eq_append_pslot hi, stageSlot_setPslotWord, hj]
    simp only [ofNat_eq_ofNat_iff (w := 1) (a := i / 8) (b := r) (by omega) hr]
    split
    · exact toNat_slotNibble v (i % 8)
    · rfl

/-- Settles O18. -/
theorem programWrites : Obligations.ProgramWrites := by
  intro s v hb
  refine ⟨?_, fun r hr => pcfgWrite s v hb hr, fun r hr => pslotWrite s v hb hr⟩
  rw [← writePlen_eq]
  exact writes_of_not_busy (target_plen s) hb v (by simp)

end Sys2Proof.Machine

/-! What the host cannot reach: who writes the key slots and the MD5 context (10_state.md R23, R24, 20_memory.md R77), and
that `W` is unobservable while the sequencer is idle (R38). -/

namespace Sys2Proof.Machine

/-! ### A register write leaves the block's internal state alone -/

/-- The state that no register write reaches (20_memory.md R61, R69). -/
structure KeepsInternal (s t : State) : Prop where
  slots : t.slots = s.slots
  md : t.md = s.md
  errinfo : t.errinfo = s.errinfo
  ecmd : t.ecmd = s.ecmd
  sst : t.sst = s.sst
  spc : t.spc = s.spc
  sdir : t.sdir = s.sdir
  work : t.work = s.work

theorem keepsInternal_writeCmd (v : Word) (s : State) : KeepsInternal s (writeCmd v s) := by
  unfold writeCmd
  split <;> exact ⟨rfl, rfl, rfl, rfl, rfl, rfl, rfl, rfl⟩

theorem keepsInternal_writePlen (v : Word) (s : State) : KeepsInternal s (writePlen v s) := by
  simp only [writePlen]
  split <;> exact ⟨rfl, rfl, rfl, rfl, rfl, rfl, rfl, rfl⟩

theorem keepsInternal_writeReg (v : Word) (s : State) (r : HostReg) : KeepsInternal s (writeReg v s r) := by
  cases r with
  | cmd => exact keepsInternal_writeCmd v s
  | plen => exact keepsInternal_writePlen v s
  | pcfg r =>
    obtain ⟨p, hp⟩ := setPcfgWord_frame r v s
    rw [writeReg, hp]
    exact ⟨rfl, rfl, rfl, rfl, rfl, rfl, rfl, rfl⟩
  | pslot r =>
    obtain ⟨p, hp⟩ := setPslotWord_frame r v s
    rw [writeReg, hp]
    exact ⟨rfl, rfl, rfl, rfl, rfl, rfl, rfl, rfl⟩
  | _ => exact ⟨rfl, rfl, rfl, rfl, rfl, rfl, rfl, rfl⟩

/-- `CTRL` is mapped at one offset (R61). -/
theorem target_eq_ctrl {width : Nat} {addr : BitVec 20} {s : State} (h : target width addr s = some .ctrl) :
    width = 32 ∧ addr = 0x00010#20 := by
  unfold target at h
  split at h
  · rename_i hw
    refine ⟨hw.1, BitVec.eq_of_toNat_eq ?_⟩
    unfold hostReg at h
    split at h
    case h_4 haddr => exact haddr
    case h_28 =>
      simp only [windowReg] at h
      split at h <;> cases h
    all_goals cases h
  · cases h

/-! ### Who writes the key slots and the MD5 context -/

/-- The key slots and the MD5 context are the same. -/
structure KeepsHidden (s t : State) : Prop where
  slots : t.slots = s.slots
  md : t.md = s.md

theorem KeepsHidden.slot {s t : State} (h : KeepsHidden s t) (k : BitVec 3) : slot t k = slot s k := by
  rw [Machine.slot, Machine.slot]
  simp only [h.slots]

/-- The next event resets the block: the reset input, or a soft reset (70_reset_and_hazards.md R400, R402). -/
def ResetNext (s : State) : Prop :=
  (∃ rest, s.events = .hardReset :: rest) ∨
    ∃ v rest, s.events = .write 32 0x00010#20 v :: rest ∧ v.getLsbD 0 = true

/-- A commit changes a key slot only by a command that names the slot (R23). -/
theorem Commit.slot_apply_ne {i : Instr} {s : State} {c : Commit} (hc : c.Allowed i s) {k : BitVec 3}
    (hne : slot (c.apply s) k ≠ slot s k) : ∃ (ra : BitVec 2) (off len : BitVec 6),
      i = .ksetk k ra ∨ i = .ksetiv k ra ∨ i = .kdfk k ra off len ∨ i = .kdfiv k ra off len := by
  cases c with
  | key kd v =>
    have hk : k = kd := by_contra fun hk => hne (slot_setKey_of_ne v s hk)
    subst hk
    obtain ⟨⟨ra, hi⟩ | ⟨ra, off, len, hi⟩, _⟩ := hc
    · exact ⟨ra, 0, 0, .inl hi⟩
    · exact ⟨ra, off, len, .inr (.inr (.inl hi))⟩
  | iv kd v =>
    have hk : k = kd := by_contra fun hk => hne (slot_setIv_of_ne v s hk)
    subst hk
    obtain ⟨⟨ra, hi⟩ | ⟨ra, off, len, hi⟩, _⟩ := hc
    · exact ⟨ra, 0, 0, .inr (.inl hi)⟩
    · exact ⟨ra, off, len, .inr (.inr (.inr hi))⟩
  | nothing | record | buffer | context | digest => exact absurd rfl hne

/-- A commit changes the MD5 context only by one of its commands (R24). -/
theorem Commit.md_apply_ne {i : Instr} {s : State} {c : Commit} (hc : c.Allowed i s) (hne : (c.apply s).md ≠ s.md) :
    ∃ ra fmt : BitVec 2, i = .md5init ∨ i = .md5upd ra ∨ i = .md5fin ra fmt := by
  cases c with
  | context m =>
    obtain ⟨hi | ⟨ra, hi⟩, _⟩ := hc
    · exact ⟨0, 0, .inl hi⟩
    · exact ⟨ra, 0, .inr (.inl hi)⟩
  | digest rd v =>
    obtain ⟨⟨fmt, hi⟩, _⟩ := hc
    exact ⟨rd, fmt, .inr (.inr hi)⟩
  | nothing | record | buffer | key | iv => exact absurd rfl hne

theorem keepsHidden_stageStep {g : Byte} {s t : State} (h : stageStep g s = .next t) : KeepsHidden s t := by
  obtain ⟨_, _, _, _, _, _, rfl⟩ := stageStep_frame h
  exact ⟨rfl, rfl⟩

/-- An instruction leaves hidden data alone, or changes it as its commit does. -/
theorem Answer.hidden {i : Instr} {s t : State} (h : Answer i s t) :
    KeepsHidden s t ∨ ∃ c : Commit, c.Allowed i s ∧ KeepsHidden (c.apply s) t := by
  cases h with
  | commit _ c hc => exact .inr ⟨c, hc, rfl, rfl⟩
  | stage g _ h => exact .inl (keepsHidden_stageStep h)
  | fault | startEnc | startDec | post => exact .inl ⟨rfl, rfl⟩

/-- What a step can do to hidden data: nothing, the commit of the command in `CW`, or a reset. -/
inductive HiddenStep (s t : State) : Prop where
  | keeps (h : KeepsHidden s t)
  | commit (hb : s.status.busy = true) (i : Instr) (hd : decode s.cw = .ok i) (u : State) (hu : KeepsHidden s u)
    (c : Commit) (hc : c.Allowed i u) (ht : KeepsHidden (c.apply u) t)
  | reset (h : ResetNext s)

theorem hiddenStep_coreStep {s u t : State} (hu : KeepsHidden s u) (hbusy : u.status.busy = s.status.busy)
    (hcw : u.cw = s.cw) (h : coreStep u = .next t) : HiddenStep s t := by
  have trans {t : State} (ht : KeepsHidden u t) : HiddenStep s t :=
    .keeps ⟨ht.slots.trans hu.slots, ht.md.trans hu.md⟩
  obtain ⟨_, heq⟩ | ⟨hb, _, i, hd, heq⟩ | ⟨_, _, _, heq⟩ | ⟨_, _, heq⟩ := coreStep_cases u <;> rw [heq] at h
  · cases h; exact .keeps hu
  · obtain ht | ⟨c, hc, ht⟩ := (exec_next h).hidden
    · exact trans ht
    · exact .commit (hbusy ▸ hb) i (hcw ▸ hd) u hu c hc ht
  · cases h; exact trans ⟨rfl, rfl⟩
  · exact trans (keepsHidden_stageStep h)

/-- A host write reaches hidden data only as a soft reset. -/
theorem hostWrite_hidden (width : Nat) (addr : BitVec 20) (v : Word) (s : State) :
    KeepsHidden s (hostWrite width addr v s) ∨ (width = 32 ∧ addr = 0x00010#20 ∧ v.getLsbD 0 = true) := by
  obtain ⟨r, htarget, heq⟩ | ⟨_, heq⟩ := hostWrite_cases width addr v s <;> rw [heq]
  · obtain ⟨rfl, hv, _⟩ | ⟨_, hw⟩ | ⟨_, hw⟩ := writeMapped_cases v r s
    · obtain ⟨hwidth, haddr⟩ := target_eq_ctrl htarget
      exact .inr ⟨hwidth, haddr, hv⟩
    · rw [hw]; exact .inl ⟨rfl, rfl⟩
    · rw [hw]
      have hk := keepsInternal_writeReg v s r
      exact .inl ⟨hk.slots, hk.md⟩
  · exact .inl ⟨rfl, rfl⟩

theorem step_hidden {s t : State} (h : step s = .next t) : HiddenStep s t := by
  obtain ⟨_, heq⟩ | ⟨rest, _, heq⟩ | ⟨width, addr, rest, _, heq⟩ | ⟨width, addr, v, rest, hev, heq⟩ | ⟨rest, hev, _⟩ :=
    step_cases s
  · exact hiddenStep_coreStep ⟨rfl, rfl⟩ rfl rfl (heq.symm.trans h)
  · exact hiddenStep_coreStep (u := { s with events := rest }) ⟨rfl, rfl⟩ rfl rfl (heq.symm.trans h)
  · cases heq.symm.trans h; exact .keeps ⟨rfl, rfl⟩
  · cases heq.symm.trans h
    obtain hk | ⟨rfl, rfl, hv⟩ := hostWrite_hidden width addr v { s with events := rest }
    · exact .keeps ⟨hk.slots, hk.md⟩
    · exact .reset (.inr ⟨v, rest, hev, hv⟩)
  · exact .reset (.inl ⟨rest, hev⟩)

/-- Settles O55, from what a step can do to hidden data. -/
theorem hiddenWriters : Obligations.HiddenWriters := by
  refine ⟨fun s t k hstep hne => ?_, fun s t hstep hne => ?_⟩
  · cases step_hidden hstep with
    | keeps hk => exact absurd (hk.slot k) hne
    | commit hb i hd u hu c hc ht =>
      rw [ht.slot k, ← hu.slot k] at hne
      obtain ⟨ra, off, len, hi⟩ := c.slot_apply_ne hc hne
      exact .inl ⟨hb, i, ra, off, len, hd, hi⟩
    | reset hr => exact .inr hr
  · cases step_hidden hstep with
    | keeps hk => exact absurd hk.md hne
    | commit hb i hd u hu c hc ht =>
      rw [ht.md, ← hu.md] at hne
      obtain ⟨ra, fmt, hi⟩ := c.md_apply_ne hc hne
      exact .inl ⟨hb, i, ra, fmt, hd, hi⟩
    | reset hr => exact .inr hr

/-! ### `W` while the sequencer is idle -/

theorem sameVisible_refl (s : State) : SameVisible s s := ⟨rfl, fun _ => rfl⟩

/-- Another working string in an idle state is not visible. -/
theorem sameVisible_withWork {s : State} (hs : s.sst = .idle) (w : Bytes) : SameVisible s (withWork w s) :=
  ⟨rfl, fun h => absurd hs h⟩

/-- Two states that agree but for a dead `W` are equal, or idle with two values of `W`. -/
theorem sameVisible_cases {a b : State} (h : SameVisible a b) :
    b = a ∨ (a.sst = .idle ∧ b = withWork b.work a) := by
  obtain ⟨heq, hwork⟩ := h
  have hb : withWork b.work { b with work := [] } = withWork b.work { a with work := [] } := congrArg _ heq.symm
  by_cases hs : a.sst = .idle
  · exact .inr ⟨hs, hb⟩
  · exact .inl (hb.trans (by rw [← hwork hs]; rfl))

/-- A commit stores the same whatever `W` is. -/
theorem complete_apply_withWork (c : Commit) (s : State) (w : Bytes) :
    complete (c.apply (withWork w s)) = withWork w (complete (c.apply s)) := by
  cases c <;> rfl

/-- The Start step overwrites `W` (47_pipeline.md R328, R329). -/
theorem startStep_withWork (ra : BitVec 2) (spc : BitVec 5) (dir : Dir) (s : State) (w : Bytes) :
    startStep ra spc dir (withWork w s) = startStep ra spc dir s := rfl

theorem exec_penc_of_idle {s : State} (hs : s.sst = .idle) (rd ra : BitVec 2) :
    exec (.penc rd ra) s = .next (startStep ra 0#5 .enc s) := by
  simp only [exec, execPenc, hs]

theorem exec_pdec_of_idle {s : State} (hs : s.sst = .idle) (rd ra : BitVec 2) (u r : Bool) :
    exec (.pdec rd ra u r) s = .next (startStep ra s.plen .dec s) := by
  simp only [exec, execPdec, hs]

/-- The sequencer has no Stage step while it is idle (R328, R329). -/
theorem not_stageStep_of_idle {s t : State} (hs : s.sst = .idle) (g : Byte) : stageStep g s ≠ .next t := by
  intro h
  obtain ⟨hrun, _⟩ := (stageReady_iff s).1 (stageStep_next h).1
  rw [hs] at hrun
  cases hrun

/-- If the result `x` answers, `y` answers the same but for a dead `W`. -/
def MatchedBy (x y : Result) : Prop :=
  ∀ t, x = .next t → ∃ t', y = .next t' ∧ SameVisible t t'

theorem matchedBy_next {t t' : State} (h : SameVisible t t') : MatchedBy (.next t) (.next t') := by
  rintro _ ⟨⟩
  exact ⟨t', rfl, h⟩

theorem matchedBy_stageStep {s : State} (hs : s.sst = .idle) (g : Byte) (y : Result) : MatchedBy (stageStep g s) y :=
  fun _ h => absurd h (not_stageStep_of_idle hs g)

theorem matchedBy_of_endsAtOnce {i : Instr} {s : State} (hs : s.sst = .idle) (h : EndsAtOnce i s) (w : Bytes) :
    MatchedBy (exec i s) (exec i (withWork w s)) := by
  obtain ⟨r, hexec, _⟩ := h
  have hsame : exec i s = retire s (r.map fun c => c.apply s) := hexec s.work
  rw [hexec w, hsame]
  cases r with
  | error e => exact matchedBy_next (sameVisible_refl _)
  | ok c =>
    have hidle : (complete (c.apply s)).sst = .idle := (keepsSeq_apply c s).sst.trans hs
    refine matchedBy_next ?_
    rw [complete_apply_withWork]
    exact sameVisible_withWork hidle w

theorem exec_matchedBy {s : State} (hs : s.sst = .idle) (i : Instr) (w : Bytes) :
    MatchedBy (exec i s) (exec i (withWork w s)) := by
  have hs' : (withWork w s).sst = .idle := hs
  cases i with
  | penc rd ra =>
    rw [exec_penc_of_idle hs, exec_penc_of_idle hs', startStep_withWork]
    exact matchedBy_next (sameVisible_refl _)
  | pdec rd ra u r =>
    rw [exec_pdec_of_idle hs, exec_pdec_of_idle hs', startStep_withWork]
    exact matchedBy_next (sameVisible_refl _)
  | tag1 => exact matchedBy_stageStep hs 0x31#8 _
  | tag2 => exact matchedBy_stageStep hs 0x32#8 _
  | tag3 => exact matchedBy_stageStep hs 0x33#8 _
  | _ => exact matchedBy_of_endsAtOnce hs (endsAtOnce id s) w

theorem fetch_withWork (s : State) (w : Bytes) : fetch (withWork w s) = fetch s := rfl

theorem coreStep_matchedBy {s : State} (hs : s.sst = .idle) (w : Bytes) :
    MatchedBy (coreStep s) (coreStep (withWork w s)) := by
  unfold coreStep
  rw [fetch_withWork]
  cases fetch s with
  | idle => exact matchedBy_next (sameVisible_withWork hs w)
  | instr i => exact exec_matchedBy hs i w
  | illegal => exact matchedBy_next (sameVisible_refl _)
  | badTag g => exact matchedBy_stageStep hs g _

theorem target_withWork (width : Nat) (addr : BitVec 20) (s : State) (w : Bytes) :
    target width addr (withWork w s) = target width addr s := rfl

/-- `W` is in no address space (20_memory.md R77). -/
theorem readReg_withWork (s : State) (r : HostReg) (w : Bytes) : readReg (withWork w s) r = readReg s r := by
  cases r <;> rfl

theorem hostRead_withWork (width : Nat) (addr : BitVec 20) (s : State) (w : Bytes) :
    hostRead width addr (withWork w s) = withWork w (hostRead width addr s) := by
  have hreply : readReply width addr (withWork w s) = readReply width addr s := by
    simp only [readReply, target_withWork, readReg_withWork]
  rw [hostRead, hreply]
  rfl

theorem setPslotWord_withWork (r : BitVec 1) (v : Word) (s : State) (w : Bytes) :
    setPslotWord r v (withWork w s) = withWork w (setPslotWord r v s) :=
  List.foldl_hom (withWork w) fun _ _ => rfl

theorem writeCmd_withWork (v : Word) (s : State) (w : Bytes) : writeCmd v (withWork w s) = withWork w (writeCmd v s) := by
  rw [writeCmd, writeCmd, apply_ite (withWork w)]
  rfl

theorem writePlen_withWork (v : Word) (s : State) (w : Bytes) :
    writePlen v (withWork w s) = withWork w (writePlen v s) := by
  simp only [writePlen, apply_ite (withWork w)]
  rfl

theorem writeReg_withWork (v : Word) (s : State) (r : HostReg) (w : Bytes) :
    writeReg v (withWork w s) r = withWork w (writeReg v s r) := by
  cases r with
  | cmd => exact writeCmd_withWork v s w
  | plen => exact writePlen_withWork v s w
  | pslot r => exact setPslotWord_withWork r v s w
  | _ => rfl

theorem sameVisible_writeMapped {s : State} (hs : s.sst = .idle) (v : Word) (r : HostReg) (w : Bytes) :
    SameVisible (writeMapped v r s) (writeMapped v r (withWork w s)) := by
  unfold writeMapped
  by_cases hreset : r = .ctrl ∧ v.getLsbD 0 = true
  · rw [if_pos hreset, if_pos hreset]
    exact sameVisible_refl _
  · rw [if_neg hreset, if_neg hreset]
    by_cases hb : s.status.busy = true
    · rw [if_pos hb, if_pos (show (withWork w s).status.busy = true from hb)]
      exact sameVisible_withWork (s := dropWrite s) hs w
    · rw [if_neg hb, if_neg (show ¬ (withWork w s).status.busy = true from hb), writeReg_withWork]
      exact sameVisible_withWork ((keepsInternal_writeReg v s r).sst.trans hs) w

theorem sameVisible_withReply {a b : State} (h : SameVisible a b) (reply : Option BusReply) :
    SameVisible { a with reply := reply } { b with reply := reply } :=
  ⟨congrArg (fun s : State => { s with reply := reply }) h.1, h.2⟩

theorem sameVisible_hostWrite {s : State} (hs : s.sst = .idle) (width : Nat) (addr : BitVec 20) (v : Word) (w : Bytes) :
    SameVisible (hostWrite width addr v s) (hostWrite width addr v (withWork w s)) := by
  unfold hostWrite
  rw [target_withWork]
  cases target width addr s with
  | none => exact sameVisible_withReply (sameVisible_withWork hs w) _
  | some r => exact sameVisible_withReply (sameVisible_writeMapped hs v r w) _

/-- Before any event, a dead `W` does not matter. -/
theorem step_matchedBy {s : State} (hs : s.sst = .idle) (w : Bytes) :
    MatchedBy (step s) (step (withWork w s)) := by
  unfold step
  rw [show (withWork w s).events = s.events from rfl]
  rcases s.events with _ | ⟨e, rest⟩
  · exact coreStep_matchedBy hs w
  · have hrest : State.sst { s with events := rest } = .idle := hs
    cases e with
    | core => exact coreStep_matchedBy hrest w
    | read width addr =>
      refine matchedBy_next ?_
      rw [show { withWork w s with events := rest } = withWork w { s with events := rest } from rfl, hostRead_withWork]
      exact sameVisible_withWork (s := hostRead width addr { s with events := rest }) hs w
    | write width addr v => exact matchedBy_next (sameVisible_hostWrite hrest width addr v w)
    | hardReset => exact matchedBy_next (sameVisible_refl _)

/-- Settles O58: equal states step alike, and an idle state's step does not depend on `W`. -/
theorem workUnobservable : Obligations.WorkUnobservable := by
  intro a b a' hab hstep
  obtain rfl | ⟨hs, hb⟩ := sameVisible_cases hab
  · exact ⟨a', hstep, sameVisible_refl a'⟩
  · rw [hb]
    exact step_matchedBy hs b.work a' hstep

end Sys2Proof.Machine

/-! The address map (20_memory.md R61): which transactions the block serves (R62, R68), and the writes the interlock drops
(R70). -/

namespace Sys2Proof.Machine

/-! ### Which offsets are mapped -/

/-- A register's offset reaches a register; any other offset is looked up in the windows. -/
theorem hostReg_cases (cap : Nat) (addr : BitVec 20) :
    (addr.toNat ∈ registerOffsets ∧ ∃ r, hostReg cap addr = some r) ∨
    (addr.toNat ∉ registerOffsets ∧ hostReg cap addr = windowReg cap addr.toNat) := by
  unfold hostReg
  split
  case h_28 =>
    refine .inr ⟨?_, rfl⟩
    simp only [registerOffsets, List.mem_cons, List.not_mem_nil, or_false, not_or]
    constructorm* _ ∧ _ <;> assumption
  all_goals exact .inl ⟨by simp [registerOffsets, *], _, rfl⟩

theorem windowReg_of_lt {cap o : Nat} (hcap : cap ≤ 65536) (ho : o < cap) (b : BitVec 2) :
    windowReg cap (0x10000 * (b.toNat + 1) + o) = some (.window b o) := by
  have hpage : (0x10000 * (b.toNat + 1) + o) / 0x10000 = b.toNat + 1 := by omega
  have hoff : (0x10000 * (b.toNat + 1) + o) % 0x10000 = o := by omega
  simp only [windowReg, hpage, hoff]
  rw [if_pos ⟨by omega, by omega, ho⟩, Nat.add_sub_cancel, BitVec.ofNat_toNat, BitVec.setWidth_eq]

theorem windowReg_isSome_iff {cap a : Nat} (hcap : cap ≤ 65536) :
    (∃ r, windowReg cap a = some r) ↔ ∃ b o, b < 4 ∧ o < cap ∧ a = 0x10000 * (b + 1) + o := by
  constructor
  · rintro ⟨r, h⟩
    simp only [windowReg] at h
    split at h
    · rename_i hw
      exact ⟨a / 0x10000 - 1, a % 0x10000, by omega, hw.2.2, by omega⟩
    · cases h
  · rintro ⟨b, o, hb, ho, rfl⟩
    have hw := windowReg_of_lt hcap ho (BitVec.ofNat 2 b)
    rw [BitVec.toNat_ofNat, Nat.mod_eq_of_lt hb] at hw
    exact ⟨_, hw⟩

theorem hostReg_isSome_iff {cap : Nat} (hcap : cap ≤ 65536) (addr : BitVec 20) :
    (∃ r, hostReg cap addr = some r) ↔ Mapped cap addr.toNat := by
  obtain ⟨hmem, hr⟩ | ⟨hmem, heq⟩ := hostReg_cases cap addr
  · exact iff_of_true hr (.inl hmem)
  · rw [heq, windowReg_isSome_iff hcap]
    exact ⟨.inr, fun h => h.resolve_left hmem⟩

/-- The transactions the block serves (R61, R68). -/
theorem target_isSome_iff {s : State} (hcap : s.cfg.cap ≤ 65536) (width : Nat) (addr : BitVec 20) :
    (∃ r, target width addr s = some r) ↔ width = 32 ∧ addr.toNat % 4 = 0 ∧ Mapped s.cfg.cap addr.toNat := by
  rw [← hostReg_isSome_iff hcap, target]
  split
  · rename_i h; simp [h]
  · rename_i h; simp only [reduceCtorEq, exists_false, false_iff]; exact fun hs => h ⟨hs.1, hs.2.1⟩

/-! ### `OKAY` and `ERROR` -/

/-- Settles O14: a transaction is served exactly at a mapped place. -/
theorem busErrors : Obligations.BusErrors := by
  intro s width addr v hcfg
  have hserved := target_isSome_iff hcfg.2.1 width addr
  refine ⟨fun h => ?_, fun h => ?_⟩
  · obtain ⟨r, hr⟩ := hserved.2 h
    obtain ⟨rfl, -⟩ := h
    exact ⟨⟨_, reads_of_target hr⟩, _, writes_of_target hr v⟩
  · have hnone : target width addr s = none :=
      Option.eq_none_iff_forall_ne_some.2 fun r hr => h (hserved.1 ⟨r, hr⟩)
    refine ⟨⟨if width = 32 then some 0#32 else none, ?_, fun hw => if_pos hw.1⟩, ?_⟩
    · rw [onEvent_read, hostRead, readReply, hnone]
    · rw [onEvent_write, hostWrite, hnone]

/-! ### The interlock -/

theorem dropWrite_of_busy {s : State} (hb : s.status.busy = true) :
    dropWrite s = { s with status := ⟨true, s.status.done, s.status.fault, true, s.status.err⟩ } := by
  rw [dropWrite, statusOverrun, hb]

/-- Settles O16: only a soft reset gets past the interlock, and only `CTRL`'s own offset reaches it. -/
theorem writesWhileBusy : Obligations.WritesWhileBusy := by
  intro s addr v hcfg hb halign hmapped hreset
  obtain ⟨r, hr⟩ := (target_isSome_iff hcfg.2.1 32 addr).2 ⟨rfl, halign, hmapped⟩
  rw [← dropWrite_of_busy hb]
  have hw := writes_of_target hr v
  obtain ⟨rfl, hv, _⟩ | ⟨_, heq⟩ | ⟨hb', _⟩ := writeMapped_cases v r s
  · exact absurd ⟨(target_eq_ctrl hr).2, hv⟩ hreset
  · rwa [heq] at hw
  · rw [hb] at hb'; cases hb'

end Sys2Proof.Machine

/-! What the host reads (20_memory.md R60, R61, R64): each register's word as a number of its fields, the bytes of a window,
and that no read depends on hidden state (R77). -/

namespace Sys2Proof.Machine

/-! ### Words as numbers -/

theorem toNat_append_eq_add {m n : Nat} (x : BitVec m) (y : BitVec n) : (x ++ y).toNat = x.toNat * 2 ^ n + y.toNat := by
  rw [BitVec.toNat_append, ← Nat.shiftLeft_add_eq_or_of_lt y.isLt, Nat.shiftLeft_eq]

theorem eq_ofNat_of_toNat_eq {w n : Nat} {x : BitVec w} (h : x.toNat = n) : x = BitVec.ofNat w n := by
  rw [← h, BitVec.ofNat_toNat, BitVec.setWidth_eq]

theorem zero_append_eq_ofNat (m : Nat) {n : Nat} (x : BitVec n) : 0#m ++ x = BitVec.ofNat (m + n) x.toNat :=
  eq_ofNat_of_toNat_eq (by rw [toNat_append_eq_add, BitVec.toNat_ofNat, Nat.zero_mod, Nat.zero_mul, Nat.zero_add])

theorem ctrlWord_eq_ofNat (c : Ctrl) :
    ctrlWord c = BitVec.ofNat 32 (2 * c.ieDone.toNat + 4 * c.ieErr.toNat + 16 * c.hexCase.toNat + 32 * c.b64Pad.toNat
      + 64 * c.padChk.toNat + 8 * 256) := by
  refine eq_ofNat_of_toNat_eq ?_
  simp only [ctrlWord, toNat_append_eq_add, BitVec.toNat_ofBool, BitVec.toNat_ofNat]
  omega

theorem statusWord_eq_ofNat (st : Status) :
    statusWord st = BitVec.ofNat 32 (st.busy.toNat + 2 * st.done.toNat + 4 * st.fault.toNat + 8 * st.ovr.toNat
      + 256 * st.err.toNat) := by
  refine eq_ofNat_of_toNat_eq ?_
  simp only [statusWord, toNat_append_eq_add, BitVec.toNat_ofBool, BitVec.toNat_ofNat]
  omega

theorem toNat_sstCode (x : Sst) : (sstCode x).toNat = match x with | .idle => 0 | .run => 1 | .post => 2 := by
  cases x <;> rfl

theorem toNat_dirCode (d : Dir) : (dirCode d).toNat = match d with | .enc => 0 | .dec => 1 := by
  cases d <;> rfl

theorem seqWord_eq_ofNat (s : State) :
    seqWord s = BitVec.ofNat 32 ((match s.sst with | .idle => 0 | .run => 1 | .post => 2) + 16 * s.spc.toNat
      + 4096 * (match s.sdir with | .enc => 0 | .dec => 1)) := by
  refine eq_ofNat_of_toNat_eq ?_
  simp only [seqWord, toNat_append_eq_add, BitVec.toNat_ofNat, toNat_sstCode, toNat_dirCode]
  omega

theorem toNat_wordOfLanes (b0 b1 b2 b3 : Byte) :
    (wordOfLanes b0 b1 b2 b3).toNat = b0.toNat * 2 ^ 24 + b1.toNat * 2 ^ 16 + b2.toNat * 2 ^ 8 + b3.toNat := by
  simp only [wordOfLanes, toNat_append_eq_add]
  omega

theorem ofNat_pcfg_index {r j : Nat} (hr : r < 4) (hj : j < 4) :
    BitVec.ofNat 4 (4 * r + j) = BitVec.ofNat 2 r ++ BitVec.ofNat 2 j := by
  rw [ofNat_eq_append_pcfg (by omega), show (4 * r + j) / 4 = r by omega, show (4 * r + j) % 4 = j by omega]

theorem ofNat_pslot_index {r j : Nat} (hr : r < 2) (hj : j < 8) :
    BitVec.ofNat 4 (8 * r + j) = BitVec.ofNat 1 r ++ BitVec.ofNat 3 j := by
  rw [ofNat_eq_append_pslot (by omega), show (8 * r + j) / 8 = r by omega, show (8 * r + j) % 8 = j by omega]

theorem pcfgWord_eq_ofNat (s : State) {r : Nat} (hr : r < 4) :
    pcfgWord s (BitVec.ofNat 2 r) = BitVec.ofNat 32 ((stageTag s (BitVec.ofNat 4 (4 * r))).toNat * 2 ^ 24
      + (stageTag s (BitVec.ofNat 4 (4 * r + 1))).toNat * 2 ^ 16
      + (stageTag s (BitVec.ofNat 4 (4 * r + 2))).toNat * 2 ^ 8
      + (stageTag s (BitVec.ofNat 4 (4 * r + 3))).toNat) := by
  rw [show BitVec.ofNat 4 (4 * r) = _ from ofNat_pcfg_index (j := 0) hr (by decide), ofNat_pcfg_index hr (by decide),
    ofNat_pcfg_index hr (by decide), ofNat_pcfg_index hr (by decide)]
  exact eq_ofNat_of_toNat_eq (toNat_wordOfLanes _ _ _ _)

theorem toNat_slotNibble_eq (s : State) {r j : Nat} (hr : r < 2) (hj : j < 8) :
    (slotNibble s (BitVec.ofNat 1 r) (BitVec.ofNat 3 j)).toNat = (stageSlot s (BitVec.ofNat 4 (8 * r + j))).toNat := by
  rw [ofNat_pslot_index hr hj, slotNibble, toNat_append_eq_add]
  simp

theorem toNat_pslotWord (s : State) (r : BitVec 1) :
    (pslotWord s r).toNat = ((List.range 8).map fun j => (slotNibble s r (BitVec.ofNat 3 j)).toNat * 16 ^ j).sum := by
  simp only [pslotWord, toNat_append_eq_add, List.sum_range_succ, List.range_zero, List.map_nil, List.sum_nil]
  ring

theorem pslotWord_eq_ofNat (s : State) {r : Nat} (hr : r < 2) :
    pslotWord s (BitVec.ofNat 1 r) =
      BitVec.ofNat 32 (((List.range 8).map fun j => (stageSlot s (BitVec.ofNat 4 (8 * r + j))).toNat * 16 ^ j).sum) := by
  refine eq_ofNat_of_toNat_eq ((toNat_pslotWord _ _).trans (congrArg List.sum (List.map_congr_left fun j hj => ?_)))
  rw [toNat_slotNibble_eq s hr (List.mem_range.1 hj)]

/-! ### The registers -/

theorem target_blen (s : State) (b : BitVec 2) : target 32 (0x00030#20 + 4 * b.setWidth 20) s = some (.blen b) := by
  obtain rfl | rfl | rfl | rfl : b = 0#2 ∨ b = 1#2 ∨ b = 2#2 ∨ b = 3#2 := by revert b; decide
  all_goals simp [target, hostReg]

/-- A read at one of the fixed offsets: `hostReg` computes. -/
theorem reads_of_hostReg {s : State} {addr : BitVec 20} {r : HostReg} (halign : addr.toNat % 4 = 0)
    (h : hostReg s.cfg.cap addr = some r) {v : Word} (hv : readReg s r = v) : Reads s addr v :=
  hv ▸ reads_of_target (by rw [target, if_pos ⟨rfl, halign⟩, h])

/-- Settles O13: each offset reaches its register, whose word is the number of its fields. -/
theorem readMap : Obligations.ReadMap := by
  intro s
  exact ⟨
    reads_of_hostReg (r := .id) rfl rfl rfl,
    reads_of_hostReg (r := .param0) rfl rfl rfl,
    reads_of_hostReg (r := .param1) rfl rfl rfl,
    reads_of_hostReg (r := .ctrl) rfl rfl (ctrlWord_eq_ofNat s.ctrl),
    reads_of_hostReg (r := .status) rfl rfl (statusWord_eq_ofNat s.status),
    reads_of_hostReg (r := .cmd) rfl rfl rfl,
    reads_of_hostReg (r := .errinfo) rfl rfl rfl,
    reads_of_hostReg (r := .ecmd) rfl rfl rfl,
    reads_of_hostReg (r := .seq) rfl rfl (seqWord_eq_ofNat s),
    fun b => reads_of_target (target_blen s b),
    reads_of_hostReg (r := .md5h 0#2) rfl rfl rfl,
    reads_of_hostReg (r := .md5h 1#2) rfl rfl rfl,
    reads_of_hostReg (r := .md5h 2#2) rfl rfl rfl,
    reads_of_hostReg (r := .md5h 3#2) rfl rfl rfl,
    reads_of_hostReg (r := .md5lenl) rfl rfl (by simp [readReg, BitVec.extractLsb']),
    reads_of_hostReg (r := .md5lenh) rfl rfl (by simp [readReg, BitVec.extractLsb', Nat.shiftRight_eq_div_pow]),
    reads_of_hostReg (r := .md5cnt) rfl rfl rfl,
    reads_of_hostReg (r := .plen) rfl rfl (zero_append_eq_ofNat 27 s.plen),
    fun _ hr => pcfgWord_eq_ofNat s hr ▸ reads_of_target (target_pcfg s hr),
    fun _ hr => pslotWord_eq_ofNat s hr ▸ reads_of_target (target_pslot s hr)⟩

/-! ### Hidden state -/

/-- A register's word is the same whatever the key slots, the pending MD5 bytes and `W`: of the pending bytes `MD5CNT` gives
the number alone (R77). -/
theorem readReg_hidden (s : State) (slots' : Vector KeySlot 8) (pending w : Bytes) (hlen : pending.length = s.md.buf.length)
    (r : HostReg) :
    readReg { s with slots := slots', md := { s.md with buf := pending }, work := w } r = readReg s r := by
  cases r with
  | md5cnt => rw [readReg, readReg, hlen]
  | _ => rfl

/-- Settles O57: the address map depends on `CAP` only, and each register's word on no hidden state. -/
theorem hiddenState : Obligations.HiddenState := by
  intro s slots' pending w width addr hlen
  have htarget : target width addr { s with slots := slots', md := { s.md with buf := pending }, work := w } =
      target width addr s := rfl
  unfold readReply
  rw [htarget]
  cases target width addr s with
  | none => rfl
  | some r => simp only [readReg_hidden s slots' pending w hlen r]

end Sys2Proof.Machine

/-! The buffer windows and `BLENb` (20_memory.md R63 to R66): the bytes a window read shows and a write stores. -/

namespace Sys2Proof.Machine

theorem toNat_windowAddr {cap o : Nat} (hcap : cap ≤ 65536) (ho : o < cap) (b : BitVec 2) :
    (windowAddr b o).toNat = 0x10000 * (b.toNat + 1) + o := by
  rw [windowAddr, BitVec.toNat_ofNat]
  omega

theorem target_window {s : State} (hcap : s.cfg.cap ≤ 65536) {o : Nat} (ho : o < s.cfg.cap) (halign : o % 4 = 0)
    (b : BitVec 2) : target 32 (windowAddr b o) s = some (.window b o) := by
  have haddr := toNat_windowAddr hcap ho b
  have hwindow : (windowAddr b o).toNat ∉ registerOffsets := by
    rw [haddr]; simp only [registerOffsets, List.mem_cons, List.not_mem_nil, or_false]; omega
  rw [target, if_pos ⟨rfl, by omega⟩]
  obtain ⟨hmem, _⟩ | ⟨_, heq⟩ := hostReg_cases s.cfg.cap (windowAddr b o)
  · exact absurd hmem hwindow
  · rw [heq, haddr, windowReg_of_lt hcap ho]

/-! ### Window reads -/

theorem lane_wordOfLanes (b : Nat → Byte) {j : Nat} (hj : j < 4) :
    lane (wordOfLanes (b 0) (b 1) (b 2) (b 3)) (BitVec.ofNat 2 j) = b j := by
  refine BitVec.eq_of_toNat_eq ?_
  rw [toNat_lane _ hj, toNat_wordOfLanes]
  have h1 := (b 1).isLt
  have h2 := (b 2).isLt
  have h3 := (b 3).isLt
  interval_cases j <;> omega

/-- Lane `j` of a window read is byte `o + j`, or 0 beyond the length (R64). -/
theorem lane_windowRead (x : Bytes) (o : Nat) {j : Nat} (hj : j < 4) :
    lane (windowRead x o) (BitVec.ofNat 2 j) = x.getD (o + j) 0#8 :=
  lane_wordOfLanes (fun j => x.getD (o + j) 0#8) hj

/-- Settles O19. -/
theorem windowReads : Obligations.WindowReads := by
  intro s b o hcfg ho halign
  refine ⟨windowRead (buf s b) o, reads_of_target (target_window hcfg.2.1 ho halign b), fun j hj => ?_⟩
  rw [← toNat_lane _ hj, lane_windowRead _ _ hj]
  split
  · rfl
  · rw [List.getD_eq_default _ _ (Nat.le_of_not_lt ‹_›)]
    rfl

/-! ### Window and `BLENb` writes -/

theorem getD_set_of_lt {x : Bytes} {i : Nat} (hi : i < x.length) (n : Nat) (a : Byte) :
    (x.set n a).getD i 0#8 = if i = n then a else x.getD i 0#8 := by
  rw [List.getD_eq_getElem?_getD, List.getElem?_set, List.getD_eq_getElem?_getD]
  split
  · subst n; simp [hi]
  · rw [if_neg (Ne.symm ‹_›)]

/-- A byte below the length after a window write: the lane written there, or as before (R65). -/
theorem getD_windowWrite (v : Word) (o : Nat) {x : Bytes} {i : Nat} (hi : i < x.length) :
    (windowWrite v o x).getD i 0#8 = if o ≤ i ∧ i < o + 4 then lane v (BitVec.ofNat 2 (i - o)) else x.getD i 0#8 := by
  unfold windowWrite
  rw [getD_set_of_lt (by simpa using hi), getD_set_of_lt (by simpa using hi), getD_set_of_lt (by simpa using hi),
    getD_set_of_lt hi]
  by_cases hin : o ≤ i ∧ i < o + 4
  · obtain ⟨j, rfl⟩ := Nat.exists_eq_add_of_le hin.1
    have hj : j < 4 := by omega
    rw [if_pos hin, Nat.add_sub_cancel_left]
    interval_cases j <;> simp
  · rw [if_neg hin, if_neg (by omega), if_neg (by omega), if_neg (by omega), if_neg (by omega)]

/-- A `BLENb` write (R66), by the three cases of `n`. -/
theorem resizeBuf_eq (cap n : Nat) (x : Bytes) :
    resizeBuf cap n x =
      if n > cap then x else if n ≤ x.length then x.take n else x ++ List.replicate (n - x.length) 0#8 := by
  unfold resizeBuf
  split
  · rfl
  · split
    · rw [Nat.sub_eq_zero_of_le ‹_›, List.replicate_zero, List.append_nil]
    · rw [List.take_of_length_le (by omega)]

theorem otherBufs_setBuf (b : BitVec 2) (v : Bytes) (s : State) : OtherBufs b s (setBuf b v s) :=
  fun _ h => buf_setBuf_of_ne v s h

/-- Settles O20: both writes store one buffer, as `windowWrite` and `resizeBuf` say. -/
theorem bufferWrites : Obligations.BufferWrites := by
  refine ⟨fun s b o v hcfg hb ho halign => ?_, fun s b v hb => ?_⟩
  · refine ⟨_, writes_of_not_busy (target_window hcfg.2.1 ho halign b) hb v nofun, rfl, otherBufs_setBuf b _ s, ?_,
      fun i hi => ?_⟩
    · rw [writeReg, buf_setBuf_self, length_windowWrite]
    · rw [writeReg, buf_setBuf_self, getD_windowWrite v o hi]
      split
      · exact toNat_lane v (by omega)
      · rfl
  · have hn : (v.extractLsb' 0 17).toNat = v.toNat % 2 ^ 17 := by simp
    refine ⟨_, writes_of_not_busy (target_blen s b) hb v nofun, rfl, otherBufs_setBuf b _ s, ?_⟩
    rw [writeReg, buf_setBuf_self, hn, resizeBuf_eq]

end Sys2Proof.Machine

/-! The core's turn (20_memory.md R72): what it executes, and that neither the events still to come nor the recorded reply
has any part in it, so that host reads among the core steps do not change where they lead (R410). -/

namespace Sys2Proof.Machine

/-! ### What the core executes -/

theorem step_of_coreTurn {s s' : State} (h : CoreTurn s s') : step s = coreStep s' := by
  obtain ⟨hev, rfl⟩ | ⟨rest, hev, rfl⟩ := h <;> simp only [step, hev]

theorem coreStep_of_not_busy {s : State} (hb : s.status.busy = false) : coreStep s = .next s := by
  simp [coreStep, fetch, hb]

theorem coreStep_of_command {s : State} (hb : s.status.busy = true) (hs : s.sst ≠ .run) {i : Instr}
    (hi : decode s.cw = .ok i) : coreStep s = exec i s := by
  obtain ⟨hb', _⟩ | ⟨_, _, hf⟩ | ⟨_, hs', _⟩ := fetch_cases s
  · rw [hb] at hb'; cases hb'
  · simp only [coreStep, hf, fetchCommand, hi]
  · exact absurd hs' hs

theorem coreStep_of_tag {s : State} (hb : s.status.busy = true) (hs : s.sst = .run) {i : Instr}
    (hi : decodeTag (stageTag s (stageIndex (nextStage s))) = .ok i) : coreStep s = exec i s := by
  obtain ⟨hb', _⟩ | ⟨_, hs', _⟩ | ⟨_, _, hf⟩ := fetch_cases s
  · rw [hb] at hb'; cases hb'
  · exact absurd hs hs'
  · simp only [coreStep, hf, fetchTag, hi]

/-- Settles O6. -/
theorem stepRunsInstruction : Obligations.StepRunsInstruction := by
  intro s s' hturn
  rw [step_of_coreTurn hturn]
  exact ⟨fun hb hs _ hi => coreStep_of_command hb hs hi, fun hb hs _ hi => coreStep_of_tag hb hs hi,
    coreStep_of_not_busy⟩

/-! ### The model's environment has no part in a core step -/

/-- The state with other events to come and another recorded reply: the model's own fields (log entries 1, 13). -/
def withEnv (events : List HostEvent) (reply : Option BusReply) (s : State) : State :=
  { s with events := events, reply := reply }

/-- A result with `f` done to its next state. -/
def onNext (f : State → State) : Result → Result
  | .next s => .next (f s)
  | .fault r => .fault r
  | .refused r => .refused r

section

variable (ev : List HostEvent) (rp : Option BusReply) (s : State)

/-- A command whose commit, of some `place`, takes one result. -/
theorem retire_map_withEnv {α : Type} (place : α → State → State) (r : Except Raise α)
    (hplace : ∀ v, place v (withEnv ev rp s) = withEnv ev rp (place v s)) :
    retire (withEnv ev rp s) (r.map fun v => place v (withEnv ev rp s)) =
      onNext (withEnv ev rp) (retire s (r.map fun v => place v s)) := by
  cases r with
  | error e => rfl
  | ok v => simp only [Except.map, hplace v]; rfl

theorem retireBuf_withEnv (rd : BitVec 2) (r : Except Raise Bytes) :
    retireBuf rd (withEnv ev rp s) r = onNext (withEnv ev rp) (retireBuf rd s r) :=
  retire_map_withEnv ev rp s (setBuf rd) r fun _ => rfl

/-- A command that stores what passes one check (40_system_buffer.md R126, R127). -/
theorem retire_ite_withEnv (p : Prop) [Decidable p] (e : Raise) (place : State → State)
    (hplace : place (withEnv ev rp s) = withEnv ev rp (place s)) :
    retire (withEnv ev rp s) (if p then .error e else .ok (place (withEnv ev rp s))) =
      onNext (withEnv ev rp) (retire s (if p then .error e else .ok (place s))) := by
  by_cases hp : p
  · rw [if_pos hp, if_pos hp]; rfl
  · rw [if_neg hp, if_neg hp, hplace]; rfl

theorem stageStepEnc_withEnv (t : Byte) : stageStepEnc t (withEnv ev rp s) = withEnv ev rp (stageStepEnc t s) := by
  obtain ⟨w, hw, heq⟩ | ⟨e, he, heq⟩ := stageStepEnc_cases t s <;>
    obtain ⟨w', hw', heq'⟩ | ⟨e', he', heq'⟩ := stageStepEnc_cases t (withEnv ev rp s)
  · cases hw.symm.trans hw'; rw [heq, heq']; rfl
  · cases hw.symm.trans he'
  · cases he.symm.trans hw'
  · cases he.symm.trans he'; rw [heq, heq']; rfl

theorem stageStepDec_withEnv (t : Byte) : stageStepDec t (withEnv ev rp s) = withEnv ev rp (stageStepDec t s) := by
  obtain ⟨w, hw, heq⟩ | ⟨e, he, heq⟩ := stageStepDec_cases t s <;>
    obtain ⟨w', hw', heq'⟩ | ⟨e', he', heq'⟩ := stageStepDec_cases t (withEnv ev rp s)
  · cases hw.symm.trans hw'; rw [heq, heq']; rfl
  · cases hw.symm.trans he'
  · cases he.symm.trans hw'
  · cases he.symm.trans he'; rw [heq, heq']; rfl

theorem stageStep_withEnv (t : Byte) : stageStep t (withEnv ev rp s) = onNext (withEnv ev rp) (stageStep t s) := by
  unfold stageStep
  rw [show stageReady (withEnv ev rp s) = stageReady s from rfl, show (withEnv ev rp s).sdir = s.sdir from rfl,
    stageStepEnc_withEnv, stageStepDec_withEnv]
  cases stageReady s with
  | false => rfl
  | true => cases s.sdir <;> rfl

theorem execPenc_withEnv (rd ra : BitVec 2) :
    execPenc rd ra (withEnv ev rp s) = onNext (withEnv ev rp) (execPenc rd ra s) := by
  unfold execPenc
  rw [show (withEnv ev rp s).sst = s.sst from rfl]
  cases s.sst <;> rfl

theorem execPdec_withEnv (rd ra : BitVec 2) (u r : Bool) :
    execPdec rd ra u r (withEnv ev rp s) = onNext (withEnv ev rp) (execPdec rd ra u r s) := by
  unfold execPdec
  rw [show (withEnv ev rp s).sst = s.sst from rfl]
  cases s.sst with
  | idle => rfl
  | run => rfl
  | post => exact retire_map_withEnv ev rp s (postCommit rd) _ fun _ => rfl

/-- No instruction reads the events or the reply, and none writes them. -/
theorem exec_withEnv (i : Instr) : exec i (withEnv ev rp s) = onNext (withEnv ev rp) (exec i s) := by
  cases i with
  | nop | errclr | bclr | bcpy | md5init | md5upd => rfl
  | bcat | b64enc | b64dec | md5 | hmac | desenc | desdec | tdesenc | tdesdec | aesenc | aesdec | cbcenc | cbcdec =>
    exact retireBuf_withEnv ev rp s _ _
  | ksetk kd ra => exact retire_ite_withEnv ev rp s _ _ (setKey kd (buf s ra)) rfl
  | ksetiv kd ra => exact retire_ite_withEnv ev rp s _ _ (setIv kd (buf s ra)) rfl
  | u8chk ra => exact retire_map_withEnv ev rp s (fun _ s => s) _ fun _ => rfl
  | md5fin rd fmt =>
    exact retire_map_withEnv ev rp s
      (fun f s => setBuf rd (render s.ctrl f (md5Finish s.md)) { s with md := Md5Ctx.init }) _ fun _ => rfl
  | kdfk kd ra off len => exact retire_map_withEnv ev rp s (setKey kd) _ fun _ => rfl
  | kdfiv kd ra off len => exact retire_map_withEnv ev rp s (setIv kd) _ fun _ => rfl
  | penc rd ra => exact execPenc_withEnv ev rp s rd ra
  | pdec rd ra u r => exact execPdec_withEnv ev rp s rd ra u r
  | tag1 => exact stageStep_withEnv ev rp s 0x31#8
  | tag2 => exact stageStep_withEnv ev rp s 0x32#8
  | tag3 => exact stageStep_withEnv ev rp s 0x33#8

theorem coreStep_withEnv : coreStep (withEnv ev rp s) = onNext (withEnv ev rp) (coreStep s) := by
  unfold coreStep
  rw [show fetch (withEnv ev rp s) = fetch s from rfl]
  cases fetch s with
  | idle => rfl
  | instr i => exact exec_withEnv ev rp s i
  | illegal => rfl
  | badTag t => exact stageStep_withEnv ev rp s t

end

/-! ### Host reads among the core steps -/

/-- The result of going on from a result, if it is a next state. -/
def andThen (x : Result) (f : State → Result) : Result :=
  match x with
  | .next s => f s
  | .fault r => .fault r
  | .refused r => .refused r

theorem runSteps_succ (n : Nat) (s : State) : runSteps (n + 1) s = andThen (step s) (runSteps n) := by
  unfold runSteps
  cases h : step s <;> simp only [Host.Core.run, andThen, core, h]

/-- A run whose first event is the core's. -/
theorem runSteps_core (n : Nat) (es : List HostEvent) (rp : Option BusReply) (s : State) :
    runSteps (n + 1) (withEnv (.core :: es) rp s) = andThen (coreStep s) fun t => runSteps n (withEnv es rp t) := by
  rw [runSteps_succ, show step (withEnv (.core :: es) rp s) = _ from coreStep_withEnv es rp s]
  cases coreStep s <;> rfl

/-- A run whose first event is a host read: it leaves the reply record and nothing else (R69). -/
theorem runSteps_read (n width : Nat) (addr : BitVec 20) (es : List HostEvent) (rp : Option BusReply) (s : State) :
    runSteps (n + 1) (withEnv (.read width addr :: es) rp s) =
      runSteps n (withEnv es (some (readReply width addr s)) s) := rfl

/-- A run of core steps and host reads is the run of its core steps, whatever reply record either starts with, but for the
reply record it ends with. -/
theorem runSteps_interleaved (es : List HostEvent) (hes : ∀ e ∈ es, e = .core ∨ ∃ width addr, e = .read width addr)
    (rp rp' : Option BusReply) (s : State) :
    ∃ last, runSteps es.length (withEnv es rp s) = onNext (fun u => { u with reply := last })
      (runSteps (es.count .core) (withEnv (List.replicate (es.count .core) .core) rp' s)) := by
  induction es generalizing rp rp' s with
  | nil => exact ⟨rp, rfl⟩
  | cons e es ih =>
    have ih := ih fun e he => hes e (List.mem_cons_of_mem _ he)
    obtain rfl | ⟨width, addr, rfl⟩ := hes e List.mem_cons_self
    · rw [List.count_cons_self, List.replicate_succ, List.length_cons, runSteps_core, runSteps_core]
      cases coreStep s with
      | next t => exact ih rp rp' t
      | fault r => exact ⟨rp, rfl⟩
      | refused r => exact ⟨rp, rfl⟩
    · rw [List.count_cons_of_ne (by simp), List.length_cons, runSteps_read]
      exact ih _ rp' s

theorem onNext_eq_next {f : State → State} {x : Result} {t : State} (h : onNext f x = .next t) :
    ∃ u, x = .next u ∧ t = f u := by
  cases x with
  | next u => cases h; exact ⟨u, rfl, rfl⟩
  | fault r => cases h
  | refused r => cases h

/-- Settles O54. -/
theorem interleaving : Obligations.Interleaving := by
  intro es s t hes hrun
  obtain ⟨last, heq⟩ := runSteps_interleaved es hes s.reply s.reply s
  obtain ⟨u, hu, rfl⟩ := onNext_eq_next (heq.symm.trans hrun)
  exact ⟨u, hu, rfl⟩

end Sys2Proof.Machine

/-! The encoding (30_encoding.md): what each format of a command word accepts (R92, R93), and from that the decoder as
the inverse of the encoder; the words as sums (R99), the rows of the opcode table (R98), and illegal encodings (R96). -/

namespace Sys2Proof.Machine

/-! ### Fields -/

section

variable {e : DecodeError} {f : BitVec 4} {imm : BitVec 12}

@[simp] theorem fieldBuf_eq_ok_iff {b : BitVec 2} : fieldBuf e f = .ok b ↔ f = bufField b :=
  ⟨fieldBuf_ok, fun h => h ▸ fieldBuf_bufField e b⟩

@[simp] theorem fieldSlot_eq_ok_iff {k : BitVec 3} : fieldSlot e f = .ok k ↔ f = slotField k :=
  ⟨fieldSlot_ok, fun h => h ▸ fieldSlot_slotField e k⟩

@[simp] theorem fieldZero_eq_ok_iff {x : Unit} : fieldZero e f = .ok x ↔ f = 0#4 :=
  ⟨fieldZero_ok, fun h => h ▸ fieldZero_zero e⟩

@[simp] theorem immZero_eq_ok_iff {x : Unit} : immZero imm = .ok x ↔ imm = 0#12 :=
  ⟨immZero_ok, fun h => h ▸ immZero_zero⟩

@[simp] theorem immOption_eq_ok_iff {u : Bool} : immOption imm = .ok u ↔ imm = optionField u false :=
  ⟨immOption_ok, fun h => h ▸ immOption_optionField u⟩

@[simp] theorem immOptions_eq_ok_iff {ur : Bool × Bool} : immOptions imm = .ok ur ↔ imm = optionField ur.1 ur.2 :=
  ⟨immOptions_ok, fun h => h ▸ immOptions_optionField ur.1 ur.2⟩

@[simp] theorem immSelector_eq_ok_iff {m : BitVec 2} : immSelector imm = .ok m ↔ imm = selectorField m ∧ m ≠ 3#2 :=
  ⟨immSelector_ok, fun ⟨h, hm⟩ => h ▸ immSelector_selectorField m hm⟩

@[simp] theorem bind_eq_ok_iff {α β : Type} {x : Except DecodeError α} {g : α → Except DecodeError β} {b : β} :
    (x >>= g) = .ok b ↔ ∃ a, x = .ok a ∧ g a = .ok b := by
  cases x with
  | error e => exact ⟨nofun, nofun⟩
  | ok a => exact ⟨fun h => ⟨a, rfl, h⟩, fun ⟨_, ha, h⟩ => by cases ha; exact h⟩

@[simp] theorem map_eq_ok_iff {α β : Type} {x : Except DecodeError α} {g : α → β} {b : β} :
    g <$> x = .ok b ↔ ∃ a, x = .ok a ∧ g a = b := by
  cases x with
  | error e => exact ⟨nofun, nofun⟩
  | ok a => exact ⟨fun h => ⟨a, rfl, Except.ok.inj h⟩, fun ⟨_, ha, h⟩ => by cases ha; exact congrArg Except.ok h⟩

end

/-! ### Formats -/

section

variable {f : Fields} {i : Instr}

theorem formatZ_eq_ok_iff {j : Instr} :
    formatZ f j = .ok i ↔ f.rd = 0#4 ∧ f.ra = 0#4 ∧ f.rb = 0#4 ∧ f.imm = 0#12 ∧ j = i := by
  simp [formatZ]

theorem formatD_eq_ok_iff {mk : BitVec 2 → Instr} :
    formatD f mk = .ok i ↔ ∃ rd, f.rd = bufField rd ∧ f.ra = 0#4 ∧ f.rb = 0#4 ∧ f.imm = 0#12 ∧ mk rd = i := by
  simp [formatD]

theorem formatS_eq_ok_iff {mk : BitVec 2 → Instr} :
    formatS f mk = .ok i ↔ ∃ ra, f.rd = 0#4 ∧ f.ra = bufField ra ∧ f.rb = 0#4 ∧ f.imm = 0#12 ∧ mk ra = i := by
  simp [formatS]

theorem formatDS_eq_ok_iff {mk : BitVec 2 → BitVec 2 → Instr} :
    formatDS f mk = .ok i ↔
      ∃ rd ra, f.rd = bufField rd ∧ f.ra = bufField ra ∧ f.rb = 0#4 ∧ f.imm = 0#12 ∧ mk rd ra = i := by
  simp [formatDS]

theorem formatDSMOption_eq_ok_iff {mk : BitVec 2 → BitVec 2 → Bool → Instr} :
    formatDSMOption f mk = .ok i ↔
      ∃ rd ra u, f.rd = bufField rd ∧ f.ra = bufField ra ∧ f.rb = 0#4 ∧ f.imm = optionField u false ∧
        mk rd ra u = i := by
  simp [formatDSMOption]

theorem formatDSMOptions_eq_ok_iff {mk : BitVec 2 → BitVec 2 → Bool → Bool → Instr} :
    formatDSMOptions f mk = .ok i ↔
      ∃ rd ra u r, f.rd = bufField rd ∧ f.ra = bufField ra ∧ f.rb = 0#4 ∧ f.imm = optionField u r ∧
        mk rd ra u r = i := by
  simp [formatDSMOptions]

theorem formatDSMSelector_eq_ok_iff {mk : BitVec 2 → BitVec 2 → BitVec 2 → Instr} :
    formatDSMSelector f mk = .ok i ↔
      ∃ rd ra m, f.rd = bufField rd ∧ f.ra = bufField ra ∧ f.rb = 0#4 ∧ f.imm = selectorField m ∧ m ≠ 3#2 ∧
        mk rd ra m = i := by
  simp [formatDSMSelector, and_assoc]

theorem formatDM_eq_ok_iff {mk : BitVec 2 → BitVec 2 → Instr} :
    formatDM f mk = .ok i ↔
      ∃ rd m, f.rd = bufField rd ∧ f.ra = 0#4 ∧ f.rb = 0#4 ∧ f.imm = selectorField m ∧ m ≠ 3#2 ∧ mk rd m = i := by
  simp [formatDM, and_assoc]

theorem formatDST_eq_ok_iff {mk : BitVec 2 → BitVec 2 → BitVec 2 → BitVec 2 → Instr} :
    formatDST f mk = .ok i ↔
      ∃ rd ra rb m, f.rd = bufField rd ∧ f.ra = bufField ra ∧ f.rb = bufField rb ∧ f.imm = selectorField m ∧ m ≠ 3#2 ∧
        mk rd ra rb m = i := by
  simp [formatDST, and_assoc]

theorem formatDSK_eq_ok_iff {mk : BitVec 2 → BitVec 2 → BitVec 3 → Instr} :
    formatDSK f mk = .ok i ↔
      ∃ rd ra k, f.rd = bufField rd ∧ f.ra = bufField ra ∧ f.rb = slotField k ∧ f.imm = 0#12 ∧ mk rd ra k = i := by
  simp [formatDSK]

theorem formatDSKM_eq_ok_iff {mk : BitVec 2 → BitVec 2 → BitVec 3 → BitVec 2 → Instr} :
    formatDSKM f mk = .ok i ↔
      ∃ rd ra k m, f.rd = bufField rd ∧ f.ra = bufField ra ∧ f.rb = slotField k ∧ f.imm = selectorField m ∧ m ≠ 3#2 ∧
        mk rd ra k m = i := by
  simp [formatDSKM, and_assoc]

theorem formatKS_eq_ok_iff {mk : BitVec 3 → BitVec 2 → Instr} :
    formatKS f mk = .ok i ↔
      ∃ kd ra, f.rd = slotField kd ∧ f.ra = bufField ra ∧ f.rb = 0#4 ∧ f.imm = 0#12 ∧ mk kd ra = i := by
  simp [formatKS]

theorem formatKD_eq_ok_iff {mk : BitVec 3 → BitVec 2 → BitVec 6 → BitVec 6 → Instr} :
    formatKD f mk = .ok i ↔
      ∃ kd ra off len, f.rd = slotField kd ∧ f.ra = bufField ra ∧ f.rb = 0#4 ∧ f.imm = off ++ len ∧
        mk kd ra off len = i := by
  simp only [formatKD, bind_eq_ok_iff, fieldBuf_eq_ok_iff, fieldSlot_eq_ok_iff, fieldZero_eq_ok_iff]
  constructor
  · rintro ⟨kd, hrd, ra, hra, -, hrb, hi⟩
    have himm : f.imm = f.imm.extractLsb' 6 6 ++ f.imm.extractLsb' 0 6 :=
      (BitVec.extractLsb'_append_extractLsb' (w := 6) (len := 6)).symm
    exact ⟨kd, ra, _, _, hrd, hra, hrb, himm, Except.ok.inj hi⟩
  · rintro ⟨kd, ra, off, len, hrd, hra, hrb, himm, hi⟩
    refine ⟨kd, hrd, ra, hra, (), hrb, congrArg Except.ok ?_⟩
    rwa [himm, BitVec.extractLsb'_append_eq_left, BitVec.extractLsb'_append_eq_right]

end

/-! ### The decoder and the encoder -/

theorem decodeCode_commandCode (op : BitVec 8) (rd ra rb : BitVec 4) (imm : BitVec 12) :
    decodeCode (commandCode op rd ra rb imm) = decodeFields ⟨op, rd, ra, rb, imm⟩ :=
  congrArg decodeFields (fieldsOf_wordOf _)

theorem decodeCode_encode {i : Instr} (hwf : i.wf = true) : decodeCode (encode i) = .ok i := by
  cases i with
  | nop | errclr | md5init =>
    exact (decodeCode_commandCode ..).trans (formatZ_eq_ok_iff.2 ⟨rfl, rfl, rfl, rfl, rfl⟩)
  | bclr rd => exact (decodeCode_commandCode ..).trans (formatD_eq_ok_iff.2 ⟨rd, rfl, rfl, rfl, rfl, rfl⟩)
  | u8chk ra | md5upd ra => exact (decodeCode_commandCode ..).trans (formatS_eq_ok_iff.2 ⟨ra, rfl, rfl, rfl, rfl, rfl⟩)
  | bcpy rd ra | bcat rd ra | penc rd ra =>
    exact (decodeCode_commandCode ..).trans (formatDS_eq_ok_iff.2 ⟨rd, ra, rfl, rfl, rfl, rfl, rfl⟩)
  | b64enc rd ra u | b64dec rd ra u =>
    exact (decodeCode_commandCode ..).trans (formatDSMOption_eq_ok_iff.2 ⟨rd, ra, u, rfl, rfl, rfl, rfl, rfl⟩)
  | pdec rd ra u r =>
    exact (decodeCode_commandCode ..).trans (formatDSMOptions_eq_ok_iff.2 ⟨rd, ra, u, r, rfl, rfl, rfl, rfl, rfl⟩)
  | md5 rd ra m =>
    exact (decodeCode_commandCode ..).trans
      (formatDSMSelector_eq_ok_iff.2 ⟨rd, ra, m, rfl, rfl, rfl, rfl, bne_iff_ne.1 hwf, rfl⟩)
  | md5fin rd m =>
    exact (decodeCode_commandCode ..).trans (formatDM_eq_ok_iff.2 ⟨rd, m, rfl, rfl, rfl, rfl, bne_iff_ne.1 hwf, rfl⟩)
  | hmac rd ra rb m =>
    exact (decodeCode_commandCode ..).trans
      (formatDST_eq_ok_iff.2 ⟨rd, ra, rb, m, rfl, rfl, rfl, rfl, bne_iff_ne.1 hwf, rfl⟩)
  | desenc rd ra k | desdec rd ra k | tdesenc rd ra k | tdesdec rd ra k | aesenc rd ra k | aesdec rd ra k =>
    exact (decodeCode_commandCode ..).trans (formatDSK_eq_ok_iff.2 ⟨rd, ra, k, rfl, rfl, rfl, rfl, rfl⟩)
  | cbcenc rd ra k m | cbcdec rd ra k m =>
    exact (decodeCode_commandCode ..).trans
      (formatDSKM_eq_ok_iff.2 ⟨rd, ra, k, m, rfl, rfl, rfl, rfl, bne_iff_ne.1 hwf, rfl⟩)
  | ksetk kd ra | ksetiv kd ra =>
    exact (decodeCode_commandCode ..).trans (formatKS_eq_ok_iff.2 ⟨kd, ra, rfl, rfl, rfl, rfl, rfl⟩)
  | kdfk kd ra off len | kdfiv kd ra off len =>
    exact (decodeCode_commandCode ..).trans (formatKD_eq_ok_iff.2 ⟨kd, ra, off, len, rfl, rfl, rfl, rfl, rfl⟩)
  | tag1 | tag2 | tag3 => rfl

/-- Settles O1, format by format. -/
theorem decodeEncode : Obligations.DecodeEncode := fun _ hwf => decodeCode_encode hwf

/-- The fields `f` are those of the encoding of the well-formed command `i`. -/
def Encodes (f : Fields) (i : Instr) : Prop :=
  i.wf = true ∧ encode i = .command (wordOf f)

theorem encodes_of_decodeFields {f : Fields} {i : Instr} (h : decodeFields f = .ok i) : Encodes f i := by
  obtain ⟨op, rd, ra, rb, imm⟩ := f
  unfold decodeFields at h
  split at h <;> rename_i hop
  case h_28 => cases h
  all_goals obtain rfl : op = _ := eq_ofNat_of_toNat_eq hop
  -- The cases are the rows of the opcode map, numbered in its order, taken together by format.
  case h_1 | h_2 | h_11 =>
    obtain ⟨rfl, rfl, rfl, rfl, rfl⟩ := formatZ_eq_ok_iff.1 h
    exact ⟨rfl, rfl⟩
  case h_3 =>
    obtain ⟨d, rfl, rfl, rfl, rfl, rfl⟩ := formatD_eq_ok_iff.1 h
    exact ⟨rfl, rfl⟩
  case h_10 | h_12 =>
    obtain ⟨a, rfl, rfl, rfl, rfl, rfl⟩ := formatS_eq_ok_iff.1 h
    exact ⟨rfl, rfl⟩
  case h_4 | h_5 | h_26 =>
    obtain ⟨d, a, rfl, rfl, rfl, rfl, rfl⟩ := formatDS_eq_ok_iff.1 h
    exact ⟨rfl, rfl⟩
  case h_8 | h_9 =>
    obtain ⟨d, a, u, rfl, rfl, rfl, rfl, rfl⟩ := formatDSMOption_eq_ok_iff.1 h
    exact ⟨rfl, rfl⟩
  case h_27 =>
    obtain ⟨d, a, u, r, rfl, rfl, rfl, rfl, rfl⟩ := formatDSMOptions_eq_ok_iff.1 h
    exact ⟨rfl, rfl⟩
  case h_14 =>
    obtain ⟨d, a, m, rfl, rfl, rfl, rfl, hm, rfl⟩ := formatDSMSelector_eq_ok_iff.1 h
    exact ⟨bne_iff_ne.2 hm, rfl⟩
  case h_13 =>
    obtain ⟨d, m, rfl, rfl, rfl, rfl, hm, rfl⟩ := formatDM_eq_ok_iff.1 h
    exact ⟨bne_iff_ne.2 hm, rfl⟩
  case h_15 =>
    obtain ⟨d, a, b, m, rfl, rfl, rfl, rfl, hm, rfl⟩ := formatDST_eq_ok_iff.1 h
    exact ⟨bne_iff_ne.2 hm, rfl⟩
  case h_16 | h_17 | h_18 | h_19 | h_20 | h_21 =>
    obtain ⟨d, a, k, rfl, rfl, rfl, rfl, rfl⟩ := formatDSK_eq_ok_iff.1 h
    exact ⟨rfl, rfl⟩
  case h_22 | h_23 =>
    obtain ⟨d, a, k, m, rfl, rfl, rfl, rfl, hm, rfl⟩ := formatDSKM_eq_ok_iff.1 h
    exact ⟨bne_iff_ne.2 hm, rfl⟩
  case h_6 | h_7 =>
    obtain ⟨k, a, rfl, rfl, rfl, rfl, rfl⟩ := formatKS_eq_ok_iff.1 h
    exact ⟨rfl, rfl⟩
  case h_24 | h_25 =>
    obtain ⟨k, a, off, len, rfl, rfl, rfl, rfl, rfl⟩ := formatKD_eq_ok_iff.1 h
    exact ⟨rfl, rfl⟩

theorem encode_of_decode {w : Word} {i : Instr} (h : decode w = .ok i) : i.wf = true ∧ encode i = .command w := by
  obtain ⟨hwf, henc⟩ := encodes_of_decodeFields h
  exact ⟨hwf, henc.trans (congrArg Code.command (wordOf_fieldsOf w))⟩

/-- Settles O2. -/
theorem encodeDecode : Obligations.EncodeDecode := by
  intro c i h
  cases c with
  | command w => exact encode_of_decode h
  | tag t => obtain ⟨rfl, rfl⟩ | ⟨rfl, rfl⟩ | ⟨rfl, rfl⟩ := decodeTag_ok h <;> exact ⟨rfl, rfl⟩

/-! ### The command words as sums (30_encoding.md R99) -/

/-- A value with room above it keeps its value when placed. -/
theorem toNat_placed {n : Nat} (v : BitVec n) {bit : Nat} (h : n + bit ≤ 32) :
    (placed v bit).toNat = v.toNat * 2 ^ bit := by
  have hlt : v.toNat * 2 ^ bit < 2 ^ 32 :=
    calc v.toNat * 2 ^ bit < 2 ^ n * 2 ^ bit := Nat.mul_lt_mul_of_pos_right v.isLt (Nat.two_pow_pos bit)
      _ = 2 ^ (n + bit) := (Nat.pow_add ..).symm
      _ ≤ 2 ^ 32 := Nat.pow_le_pow_right Nat.two_pos h
  rw [placed, BitVec.toNat_shiftLeft, BitVec.toNat_setWidth_of_le (by omega), Nat.shiftLeft_eq, Nat.mod_eq_of_lt hlt]

theorem placed_zero (n bit : Nat) : placed 0#n bit = 0#32 := by
  simp [placed]

theorem placed_ofBool_false (bit : Nat) : placed (BitVec.ofBool false) bit = 0#32 := placed_zero 1 bit

theorem placed_append {m n : Nat} (x : BitVec m) (y : BitVec n) {bit : Nat} (h : m + n + bit ≤ 32) :
    placed (x ++ y) bit = placed x (n + bit) + placed y bit := by
  have hxy := toNat_placed (x ++ y) h
  have hlt := (placed (x ++ y) bit).isLt
  rw [toNat_append_eq_add, Nat.add_mul, Nat.mul_assoc, ← Nat.pow_add, ← toNat_placed x (by omega),
    ← toNat_placed y (by omega)] at hxy
  refine BitVec.eq_of_toNat_eq ?_
  rw [BitVec.toNat_add, Nat.mod_eq_of_lt (hxy ▸ hlt), hxy]

theorem wordOf_eq_sum (op : BitVec 8) (rd ra rb : BitVec 4) (imm : BitVec 12) :
    wordOf ⟨op, rd, ra, rb, imm⟩ = op ++ 0#24 + placed rd 20 + placed ra 16 + placed rb 12 + placed imm 0 := by
  refine BitVec.eq_of_toNat_eq ?_
  simp only [wordOf, toNat_append_eq_add, BitVec.toNat_add, BitVec.toNat_ofNat]
  rw [toNat_placed rd (by omega), toNat_placed ra (by omega), toNat_placed rb (by omega), toNat_placed imm (by omega)]
  omega

theorem placed_bufField (b : BitVec 2) {bit : Nat} (h : 4 + bit ≤ 32) : placed (bufField b) bit = placed b bit := by
  rw [bufField, placed_append _ _ h, placed_zero, BitVec.zero_add]

theorem placed_slotField (k : BitVec 3) {bit : Nat} (h : 4 + bit ≤ 32) : placed (slotField k) bit = placed k bit := by
  rw [slotField, placed_append _ _ h, placed_zero, BitVec.zero_add]

theorem placed_selectorField (m : BitVec 2) : placed (selectorField m) 0 = placed m 0 := by
  rw [selectorField, placed_append _ _ (by omega), placed_zero, BitVec.zero_add]

theorem placed_optionField (u r : Bool) :
    placed (optionField u r) 0 = placed (BitVec.ofBool u) 0 + placed (BitVec.ofBool r) 1 := by
  rw [optionField, placed_append _ _ (by omega), placed_append _ _ (by omega), placed_zero, BitVec.zero_add,
    BitVec.add_comm]

theorem placed_offLen (off len : BitVec 6) : placed (off ++ len) 0 = placed off 6 + placed len 0 :=
  placed_append off len (by omega)

/-- Settles O4: the word of the fields is their sum, and each field's term is that of its operands. -/
theorem wordForms : Obligations.WordForms := by
  intro d a b fmt c kd k u r off len
  simp only [encode, commandCode, wordOf_eq_sum, placed_bufField, placed_slotField, placed_selectorField,
    placed_optionField, placed_offLen, placed_ofBool_false, placed_zero, BitVec.reduceAppend, BitVec.add_zero,
    BitVec.add_assoc, Nat.reduceAdd, Nat.reduceLeDiff, and_self]

/-! ### The rows of the opcode table (30_encoding.md R98) -/

/-- A row's test, field by field. -/
theorem admits_wordOf_iff {r : OpcodeRow} {op : BitVec 8} {rd ra rb : BitVec 4} {imm : BitVec 12} :
    r.Admits (wordOf ⟨op, rd, ra, rb, imm⟩) ↔
      op &&& (fieldsOf r.mask).op = (fieldsOf r.pattern).op ∧ rd &&& (fieldsOf r.mask).rd = (fieldsOf r.pattern).rd ∧
      ra &&& (fieldsOf r.mask).ra = (fieldsOf r.pattern).ra ∧ rb &&& (fieldsOf r.mask).rb = (fieldsOf r.pattern).rb ∧
      imm &&& (fieldsOf r.mask).imm = (fieldsOf r.pattern).imm ∧
      (r.constrained = true → imm.extractLsb' 0 2 ≠ 3#2) := by
  generalize hw : wordOf ⟨op, rd, ra, rb, imm⟩ = w
  have hf : fieldsOf w = ⟨op, rd, ra, rb, imm⟩ := hw ▸ fieldsOf_wordOf _
  have hmatch : w &&& r.mask = r.pattern ↔ fieldsOf (w &&& r.mask) = fieldsOf r.pattern :=
    ⟨congrArg fieldsOf, fun h => by rw [← wordOf_fieldsOf (w &&& r.mask), h, wordOf_fieldsOf]⟩
  obtain ⟨rfl, rfl, rfl, rfl, rfl⟩ := Fields.mk.inj hf
  rw [OpcodeRow.Admits, hmatch]
  simp only [fieldsOf, Fields.mk.injEq, BitVec.extractLsb'_and, and_assoc,
    BitVec.extractLsb'_extractLsb'_of_le (show 0 + 2 ≤ 12 by omega)]

theorem and_bufMask_iff {f : BitVec 4} : f &&& 0xC#4 = 0#4 ↔ ∃ b, f = bufField b := by
  revert f; decide

theorem and_slotMask_iff {f : BitVec 4} : f &&& 0x8#4 = 0#4 ↔ ∃ k, f = slotField k := by
  revert f; decide

theorem eq_zero_of_and_allOnes {n : Nat} {f : BitVec n} (h : f &&& BitVec.allOnes n = 0#n) : f = 0#n :=
  BitVec.and_allOnes.symm.trans h

/-- A field that is 0 under a mask of its high bits has these bits 0. -/
theorem high_eq_zero_of_and {m n : Nat} {f : BitVec (m + n)} (h : f &&& (BitVec.allOnes m ++ 0#n) = 0#(m + n)) :
    f.extractLsb' n m = 0#m := by
  calc f.extractLsb' n m = f.extractLsb' n m &&& (BitVec.allOnes m ++ 0#n).extractLsb' n m := by
        rw [BitVec.extractLsb'_append_eq_left, BitVec.and_allOnes]
    _ = 0#m := by rw [← BitVec.extractLsb'_and, h, BitVec.extractLsb'_zero]

theorem and_optionMask_iff {imm : BitVec 12} : imm &&& 0xFFE#12 = 0#12 ↔ ∃ u, imm = optionField u false :=
  ⟨fun h => ⟨_, immOption_ok (if_pos (high_eq_zero_of_and (m := 11) (n := 1) h))⟩,
    fun ⟨u, hu⟩ => by subst hu; revert u; decide⟩

theorem and_optionsMask_iff {imm : BitVec 12} : imm &&& 0xFFC#12 = 0#12 ↔ ∃ u r, imm = optionField u r :=
  ⟨fun h => ⟨_, _, immOptions_ok (if_pos (high_eq_zero_of_and (m := 10) (n := 2) h))⟩,
    fun ⟨u, r, hur⟩ => by subst hur; revert u r; decide⟩

theorem and_selectorMask_iff {imm : BitVec 12} :
    imm &&& 0xFFC#12 = 0#12 ∧ imm.extractLsb' 0 2 ≠ 3#2 ↔ ∃ m, imm = selectorField m ∧ m ≠ 3#2 :=
  ⟨fun ⟨h, hm⟩ => ⟨_, immSelector_ok (if_pos ⟨high_eq_zero_of_and (m := 10) (n := 2) h, hm⟩)⟩,
    fun ⟨m, himm, hm⟩ => by subst himm; revert m; decide⟩

theorem and_offLenMask_iff {imm : BitVec 12} : imm &&& 0#12 = 0#12 ↔ ∃ off len : BitVec 6, imm = off ++ len :=
  ⟨fun _ => ⟨_, _, (BitVec.extractLsb'_append_extractLsb' (w := 6) (len := 6)).symm⟩, fun _ => BitVec.and_zero⟩

/-- Every row tests the whole opcode. -/
theorem opcode_mask_of_commandRow {j : Instr} {r : OpcodeRow} (h : commandRow j = some r) :
    (fieldsOf r.mask).op = BitVec.allOnes 8 := by
  cases j <;> cases h <;> rfl

/-- The encoding of a well-formed command matches the command's row. -/
theorem admits_of_encode {i : Instr} {w : Word} (hwf : i.wf = true) (h : encode i = .command w) :
    ∃ r, commandRow i = some r ∧ r.Admits w := by
  cases i
  case tag1 | tag2 | tag3 => cases h
  all_goals obtain rfl := Code.command.inj h
  case nop | errclr | md5init =>
    exact ⟨_, rfl, admits_wordOf_iff.2 ⟨rfl, rfl, rfl, rfl, rfl, nofun⟩⟩
  case bclr d =>
    exact ⟨_, rfl, admits_wordOf_iff.2 ⟨rfl, and_bufMask_iff.2 ⟨d, rfl⟩, rfl, rfl, rfl, nofun⟩⟩
  case u8chk a | md5upd a =>
    exact ⟨_, rfl, admits_wordOf_iff.2 ⟨rfl, rfl, and_bufMask_iff.2 ⟨a, rfl⟩, rfl, rfl, nofun⟩⟩
  case bcpy d a | bcat d a | penc d a =>
    exact ⟨_, rfl, admits_wordOf_iff.2 ⟨rfl, and_bufMask_iff.2 ⟨d, rfl⟩, and_bufMask_iff.2 ⟨a, rfl⟩, rfl, rfl, nofun⟩⟩
  case b64enc d a u | b64dec d a u =>
    exact ⟨_, rfl, admits_wordOf_iff.2 ⟨rfl, and_bufMask_iff.2 ⟨d, rfl⟩, and_bufMask_iff.2 ⟨a, rfl⟩, rfl,
      and_optionMask_iff.2 ⟨u, rfl⟩, nofun⟩⟩
  case pdec d a u v =>
    exact ⟨_, rfl, admits_wordOf_iff.2 ⟨rfl, and_bufMask_iff.2 ⟨d, rfl⟩, and_bufMask_iff.2 ⟨a, rfl⟩, rfl,
      and_optionsMask_iff.2 ⟨u, v, rfl⟩, nofun⟩⟩
  case md5 d a m =>
    obtain ⟨himm, hm⟩ := and_selectorMask_iff.2 ⟨m, rfl, bne_iff_ne.1 hwf⟩
    exact ⟨_, rfl, admits_wordOf_iff.2 ⟨rfl, and_bufMask_iff.2 ⟨d, rfl⟩, and_bufMask_iff.2 ⟨a, rfl⟩, rfl, himm,
      fun _ => hm⟩⟩
  case md5fin d m =>
    obtain ⟨himm, hm⟩ := and_selectorMask_iff.2 ⟨m, rfl, bne_iff_ne.1 hwf⟩
    exact ⟨_, rfl, admits_wordOf_iff.2 ⟨rfl, and_bufMask_iff.2 ⟨d, rfl⟩, rfl, rfl, himm, fun _ => hm⟩⟩
  case hmac d a b m =>
    obtain ⟨himm, hm⟩ := and_selectorMask_iff.2 ⟨m, rfl, bne_iff_ne.1 hwf⟩
    exact ⟨_, rfl, admits_wordOf_iff.2 ⟨rfl, and_bufMask_iff.2 ⟨d, rfl⟩, and_bufMask_iff.2 ⟨a, rfl⟩,
      and_bufMask_iff.2 ⟨b, rfl⟩, himm, fun _ => hm⟩⟩
  case desenc d a k | desdec d a k | tdesenc d a k | tdesdec d a k | aesenc d a k | aesdec d a k =>
    exact ⟨_, rfl, admits_wordOf_iff.2 ⟨rfl, and_bufMask_iff.2 ⟨d, rfl⟩, and_bufMask_iff.2 ⟨a, rfl⟩,
      and_slotMask_iff.2 ⟨k, rfl⟩, rfl, nofun⟩⟩
  case cbcenc d a k m | cbcdec d a k m =>
    obtain ⟨himm, hm⟩ := and_selectorMask_iff.2 ⟨m, rfl, bne_iff_ne.1 hwf⟩
    exact ⟨_, rfl, admits_wordOf_iff.2 ⟨rfl, and_bufMask_iff.2 ⟨d, rfl⟩, and_bufMask_iff.2 ⟨a, rfl⟩,
      and_slotMask_iff.2 ⟨k, rfl⟩, himm, fun _ => hm⟩⟩
  case ksetk k a | ksetiv k a =>
    exact ⟨_, rfl, admits_wordOf_iff.2 ⟨rfl, and_slotMask_iff.2 ⟨k, rfl⟩, and_bufMask_iff.2 ⟨a, rfl⟩, rfl, rfl,
      nofun⟩⟩
  case kdfk k a off len | kdfiv k a off len =>
    exact ⟨_, rfl, admits_wordOf_iff.2 ⟨rfl, and_slotMask_iff.2 ⟨k, rfl⟩, and_bufMask_iff.2 ⟨a, rfl⟩, rfl,
      and_offLenMask_iff.2 ⟨off, len, rfl⟩, nofun⟩⟩

/-- A word that matches a row decodes to an instruction of that row. -/
theorem decode_of_admits {j : Instr} {r : OpcodeRow} {w : Word} (hrow : commandRow j = some r) (hw : r.Admits w) :
    ∃ i, decode w = .ok i ∧ commandRow i = some r := by
  rw [← wordOf_fieldsOf w] at hw
  rw [decode]
  generalize fieldsOf w = f at hw ⊢
  obtain ⟨op, rd, ra, rb, imm⟩ := f
  obtain ⟨hop, hrd, hra, hrb, himm, hsel⟩ := admits_wordOf_iff.1 hw
  rw [opcode_mask_of_commandRow hrow, BitVec.and_allOnes] at hop
  subst hop
  cases j <;> cases hrow
  case nop | errclr | md5init =>
    exact ⟨_, formatZ_eq_ok_iff.2 ⟨eq_zero_of_and_allOnes hrd, eq_zero_of_and_allOnes hra,
      eq_zero_of_and_allOnes hrb, eq_zero_of_and_allOnes himm, rfl⟩, rfl⟩
  case bclr =>
    obtain ⟨d, rfl⟩ := and_bufMask_iff.1 hrd
    exact ⟨_, formatD_eq_ok_iff.2 ⟨d, rfl, eq_zero_of_and_allOnes hra, eq_zero_of_and_allOnes hrb,
      eq_zero_of_and_allOnes himm, rfl⟩, rfl⟩
  case u8chk | md5upd =>
    obtain ⟨a, rfl⟩ := and_bufMask_iff.1 hra
    exact ⟨_, formatS_eq_ok_iff.2 ⟨a, eq_zero_of_and_allOnes hrd, rfl, eq_zero_of_and_allOnes hrb,
      eq_zero_of_and_allOnes himm, rfl⟩, rfl⟩
  case bcpy | bcat | penc =>
    obtain ⟨d, rfl⟩ := and_bufMask_iff.1 hrd
    obtain ⟨a, rfl⟩ := and_bufMask_iff.1 hra
    exact ⟨_, formatDS_eq_ok_iff.2 ⟨d, a, rfl, rfl, eq_zero_of_and_allOnes hrb, eq_zero_of_and_allOnes himm, rfl⟩,
      rfl⟩
  case b64enc | b64dec =>
    obtain ⟨d, rfl⟩ := and_bufMask_iff.1 hrd
    obtain ⟨a, rfl⟩ := and_bufMask_iff.1 hra
    obtain ⟨u, rfl⟩ := and_optionMask_iff.1 himm
    exact ⟨_, formatDSMOption_eq_ok_iff.2 ⟨d, a, u, rfl, rfl, eq_zero_of_and_allOnes hrb, rfl, rfl⟩, rfl⟩
  case pdec =>
    obtain ⟨d, rfl⟩ := and_bufMask_iff.1 hrd
    obtain ⟨a, rfl⟩ := and_bufMask_iff.1 hra
    obtain ⟨u, v, rfl⟩ := and_optionsMask_iff.1 himm
    exact ⟨_, formatDSMOptions_eq_ok_iff.2 ⟨d, a, u, v, rfl, rfl, eq_zero_of_and_allOnes hrb, rfl, rfl⟩, rfl⟩
  case md5 =>
    obtain ⟨d, rfl⟩ := and_bufMask_iff.1 hrd
    obtain ⟨a, rfl⟩ := and_bufMask_iff.1 hra
    obtain ⟨m, rfl, hm⟩ := and_selectorMask_iff.1 ⟨himm, hsel rfl⟩
    exact ⟨_, formatDSMSelector_eq_ok_iff.2 ⟨d, a, m, rfl, rfl, eq_zero_of_and_allOnes hrb, rfl, hm, rfl⟩, rfl⟩
  case md5fin =>
    obtain ⟨d, rfl⟩ := and_bufMask_iff.1 hrd
    obtain ⟨m, rfl, hm⟩ := and_selectorMask_iff.1 ⟨himm, hsel rfl⟩
    exact ⟨_, formatDM_eq_ok_iff.2 ⟨d, m, rfl, eq_zero_of_and_allOnes hra, eq_zero_of_and_allOnes hrb, rfl, hm,
      rfl⟩, rfl⟩
  case hmac =>
    obtain ⟨d, rfl⟩ := and_bufMask_iff.1 hrd
    obtain ⟨a, rfl⟩ := and_bufMask_iff.1 hra
    obtain ⟨b, rfl⟩ := and_bufMask_iff.1 hrb
    obtain ⟨m, rfl, hm⟩ := and_selectorMask_iff.1 ⟨himm, hsel rfl⟩
    exact ⟨_, formatDST_eq_ok_iff.2 ⟨d, a, b, m, rfl, rfl, rfl, rfl, hm, rfl⟩, rfl⟩
  case desenc | desdec | tdesenc | tdesdec | aesenc | aesdec =>
    obtain ⟨d, rfl⟩ := and_bufMask_iff.1 hrd
    obtain ⟨a, rfl⟩ := and_bufMask_iff.1 hra
    obtain ⟨k, rfl⟩ := and_slotMask_iff.1 hrb
    exact ⟨_, formatDSK_eq_ok_iff.2 ⟨d, a, k, rfl, rfl, rfl, eq_zero_of_and_allOnes himm, rfl⟩, rfl⟩
  case cbcenc | cbcdec =>
    obtain ⟨d, rfl⟩ := and_bufMask_iff.1 hrd
    obtain ⟨a, rfl⟩ := and_bufMask_iff.1 hra
    obtain ⟨k, rfl⟩ := and_slotMask_iff.1 hrb
    obtain ⟨m, rfl, hm⟩ := and_selectorMask_iff.1 ⟨himm, hsel rfl⟩
    exact ⟨_, formatDSKM_eq_ok_iff.2 ⟨d, a, k, m, rfl, rfl, rfl, rfl, hm, rfl⟩, rfl⟩
  case ksetk | ksetiv =>
    obtain ⟨k, rfl⟩ := and_slotMask_iff.1 hrd
    obtain ⟨a, rfl⟩ := and_bufMask_iff.1 hra
    exact ⟨_, formatKS_eq_ok_iff.2 ⟨k, a, rfl, rfl, eq_zero_of_and_allOnes hrb, eq_zero_of_and_allOnes himm, rfl⟩,
      rfl⟩
  case kdfk | kdfiv =>
    obtain ⟨k, rfl⟩ := and_slotMask_iff.1 hrd
    obtain ⟨a, rfl⟩ := and_bufMask_iff.1 hra
    obtain ⟨off, len, rfl⟩ := and_offLenMask_iff.1 himm
    exact ⟨_, formatKD_eq_ok_iff.2 ⟨k, a, off, len, rfl, rfl, eq_zero_of_and_allOnes hrb, rfl, rfl⟩, rfl⟩

/-- Settles O3. -/
theorem opcodeTable : Obligations.OpcodeTable := by
  have hadmits : ∀ (w : Word) (i : Instr), decode w = .ok i → ∃ r, commandRow i = some r ∧ r.Admits w :=
    fun w i h => admits_of_encode (encode_of_decode h).1 (encode_of_decode h).2
  refine ⟨hadmits, fun j r w => decode_of_admits, fun w hnone => ?_⟩
  cases hd : decode w with
  | error e => exact ⟨e, rfl⟩
  | ok i =>
    obtain ⟨r, hrow, hw⟩ := hadmits w i hd
    exact absurd hw (hnone i r hrow)

/-! ### Illegal encodings (30_encoding.md R96) -/

theorem coreStep_of_illegal {s : State} (hb : s.status.busy = true) (hs : s.sst ≠ .run)
    (hd : ∃ e, decode s.cw = .error e) : coreStep s = .next (takeFault .illegal none s) := by
  obtain ⟨e, he⟩ := hd
  obtain ⟨hb', _⟩ | ⟨_, _, i, hi, _⟩ | ⟨_, _, _, heq⟩ | ⟨_, hs', _⟩ := coreStep_cases s
  · rw [hb] at hb'; cases hb'
  · rw [he] at hi; cases hi
  · exact heq
  · exact absurd hs' hs

theorem coreStep_of_run {s : State} (hb : s.status.busy = true) (hs : s.sst = .run) :
    coreStep s = stageStep (stageTag s (stageIndex (nextStage s))) s := by
  obtain ⟨hb', _⟩ | ⟨_, hs', _⟩ | ⟨_, hs', _⟩ | ⟨_, _, heq⟩ := coreStep_cases s
  · rw [hb] at hb'; cases hb'
  · exact absurd hs hs'
  · exact absurd hs hs'
  · exact heq

theorem stageStep_of_enc {t : Byte} {s : State} (hready : stageReady s = true) (hdir : s.sdir = .enc) :
    stageStep t s = .next (stageStepEnc t s) := by
  rw [stageStep, if_pos hready, hdir]

theorem stageStep_of_dec {t : Byte} {s : State} (hready : stageReady s = true) (hdir : s.sdir = .dec) :
    stageStep t s = .next (stageStepDec t s) := by
  rw [stageStep, if_pos hready, hdir]

theorem nextStage_of_enc {s : State} (hdir : s.sdir = .enc) : nextStage s = s.spc := by
  rw [nextStage, hdir]

theorem nextStage_of_dec {s : State} (hdir : s.sdir = .dec) : nextStage s = s.spc - 1#5 := by
  rw [nextStage, hdir]

/-- The fault of a pipeline stage, which leaves `SPC` at the stage's index (47_pipeline.md R331). -/
theorem stageFault_takeFault (e : Raise) (i : BitVec 5) (s : State) :
    StageFault (raiseCode e) (raiseInfo e) i s (takeFault e (some i) { s with spc := i }) :=
  ⟨⟨rfl, rfl, rfl, rfl, ⟨rfl, fun _ => rfl, fun _ => rfl, rfl, rfl, rfl, rfl, rfl, rfl, rfl, rfl⟩⟩, rfl, rfl⟩

theorem raiseInfo_stage (t : Byte) : raiseInfo (.stage t) = BitVec.ofNat 24 t.toNat :=
  zero_append_eq_ofNat 16 t

section

variable {t : Byte} (h1 : t ≠ 0x31#8) (h2 : t ≠ 0x32#8) (h3 : t ≠ 0x33#8)
include h1 h2 h3

theorem stageStepEnc_of_unknown (s : State) : stageStepEnc t s = takeFault (.stage t) (some s.spc) s := by
  rw [stageStepEnc, stageEnc, if_neg h1, if_neg h2, if_neg h3]

theorem stageStepDec_of_unknown (s : State) :
    stageStepDec t s = takeFault (.stage t) (some (s.spc - 1#5)) { s with spc := s.spc - 1#5 } := by
  rw [stageStepDec, stageDec, if_neg h1, if_neg h2, if_neg h3]

/-- An unknown tag faults at its stage, in either direction (47_pipeline.md R321). -/
theorem stageStep_of_unknown {s : State} (hready : stageReady s = true) :
    ∃ u, stageStep t s = .next u ∧ StageFault 0x07#8 (BitVec.ofNat 24 t.toNat) (nextStage s) s u := by
  rw [← raiseInfo_stage]
  cases hdir : s.sdir with
  | enc =>
    rw [stageStep_of_enc hready hdir, stageStepEnc_of_unknown h1 h2 h3, nextStage_of_enc hdir]
    exact ⟨_, rfl, stageFault_takeFault (.stage t) s.spc s⟩
  | dec =>
    rw [stageStep_of_dec hready hdir, stageStepDec_of_unknown h1 h2 h3, nextStage_of_dec hdir]
    exact ⟨_, rfl, stageFault_takeFault (.stage t) (s.spc - 1#5) s⟩

end

/-- Settles O7. -/
theorem illegalEncodings : Obligations.IllegalEncodings := by
  refine ⟨fun s s' hturn hb hs hd => ?_, fun s s' hturn hb hready _ _ => ?_⟩
  · have hrun : s'.sst ≠ .run := by rw [hs]; nofun
    rw [step_of_coreTurn hturn, coreStep_of_illegal hb hrun hd]
    exact ⟨_, rfl, commandFault_takeFault .illegal s'⟩
  · intro i tag h1 h2 h3
    obtain ⟨hrun, _⟩ := (stageReady_iff s').1 hready
    rw [step_of_coreTurn hturn, coreStep_of_run hb hrun]
    exact stageStep_of_unknown h1 h2 h3 hready

end Sys2Proof.Machine

/-! The system, buffer and key-slot commands (40_system_buffer.md): which words of an opcode decode, format by format
(30_encoding.md R92, R96), how a command with one check ends (R120), and each command's effect and frame. -/

namespace Sys2Proof.Machine

/-! ### Words and the instructions they stand for -/

/-- The word a well-formed command is encoded as decodes to it. -/
theorem decode_of_encode {w : Word} {i : Instr} (hwf : i.wf = true) (h : encode i = .command w) : decode w = .ok i :=
  (congrArg decodeCode h).symm.trans (decodeCode_encode hwf)

/-- Settles O5: each word is the encoding of its instruction. -/
theorem decodeSamples : Obligations.DecodeSamples := by
  refine ⟨?_, ?_, ?_, ?_, ?_, ?_, ?_, ?_, ?_, ?_, ?_, ?_, ?_, ?_, ?_, ?_, ?_, ?_, ?_, rfl, rfl, rfl⟩
  all_goals exact decode_of_encode rfl rfl

/-- An opcode's encoding, from the fields with which it decodes. -/
theorem encoded_of_decodeFields_iff {α : Type} {op : BitVec 8} {fs : α → BitVec 4 × BitVec 4 × BitVec 4 × BitVec 12}
    {legal : α → Prop} {ins : α → Instr}
    (h : ∀ rd ra rb imm i, decodeFields ⟨op, rd, ra, rb, imm⟩ = .ok i ↔
      ∃ a, legal a ∧ fs a = (rd, ra, rb, imm) ∧ ins a = i) :
    Encoded op fs legal ins := by
  refine ⟨fun a ha => ?_, fun w hop hnone => ?_⟩
  · rw [decode, fieldsOf_wordOf]
    exact (h ..).2 ⟨a, ha, rfl, rfl⟩
  · subst hop
    cases hd : decode w with
    | error e => exact ⟨e, rfl⟩
    | ok i =>
      obtain ⟨a, ha, hfs, -⟩ := (h _ _ _ _ i).1 hd
      refine absurd ?_ (hnone a ha)
      simp only [hfs]
      exact (wordOf_fieldsOf w).symm

section

variable {op : BitVec 8}

theorem encoded_of_formatZ {j : Instr}
    (h : ∀ rd ra rb imm, decodeFields ⟨op, rd, ra, rb, imm⟩ = formatZ ⟨op, rd, ra, rb, imm⟩ j) :
    Encoded op (fun _ : Unit => (0#4, 0#4, 0#4, 0#12)) (fun _ => True) (fun _ => j) := by
  refine encoded_of_decodeFields_iff fun rd ra rb imm i => ?_
  rw [h, formatZ_eq_ok_iff]
  constructor
  · rintro ⟨rfl, rfl, rfl, rfl, rfl⟩
    exact ⟨(), trivial, rfl, rfl⟩
  · rintro ⟨_, -, ⟨⟩, rfl⟩
    exact ⟨rfl, rfl, rfl, rfl, rfl⟩

theorem encoded_of_formatD {mk : BitVec 2 → Instr}
    (h : ∀ rd ra rb imm, decodeFields ⟨op, rd, ra, rb, imm⟩ = formatD ⟨op, rd, ra, rb, imm⟩ mk) :
    Encoded op (fun d : BitVec 2 => (bufField d, 0#4, 0#4, 0#12)) (fun _ => True) mk := by
  refine encoded_of_decodeFields_iff fun rd ra rb imm i => ?_
  rw [h, formatD_eq_ok_iff]
  constructor
  · rintro ⟨d, rfl, rfl, rfl, rfl, rfl⟩
    exact ⟨d, trivial, rfl, rfl⟩
  · rintro ⟨d, -, ⟨⟩, rfl⟩
    exact ⟨d, rfl, rfl, rfl, rfl, rfl⟩

theorem encoded_of_formatDS {mk : BitVec 2 → BitVec 2 → Instr}
    (h : ∀ rd ra rb imm, decodeFields ⟨op, rd, ra, rb, imm⟩ = formatDS ⟨op, rd, ra, rb, imm⟩ mk) :
    Encoded op (fun x : BitVec 2 × BitVec 2 => (bufField x.1, bufField x.2, 0#4, 0#12)) (fun _ => True)
      (fun x => mk x.1 x.2) := by
  refine encoded_of_decodeFields_iff fun rd ra rb imm i => ?_
  rw [h, formatDS_eq_ok_iff]
  constructor
  · rintro ⟨d, a, rfl, rfl, rfl, rfl, rfl⟩
    exact ⟨(d, a), trivial, rfl, rfl⟩
  · rintro ⟨⟨d, a⟩, -, ⟨⟩, rfl⟩
    exact ⟨d, a, rfl, rfl, rfl, rfl, rfl⟩

theorem encoded_of_formatKS {mk : BitVec 3 → BitVec 2 → Instr}
    (h : ∀ rd ra rb imm, decodeFields ⟨op, rd, ra, rb, imm⟩ = formatKS ⟨op, rd, ra, rb, imm⟩ mk) :
    Encoded op (fun x : BitVec 3 × BitVec 2 => (slotField x.1, bufField x.2, 0#4, 0#12)) (fun _ => True)
      (fun x => mk x.1 x.2) := by
  refine encoded_of_decodeFields_iff fun rd ra rb imm i => ?_
  rw [h, formatKS_eq_ok_iff]
  constructor
  · rintro ⟨k, a, rfl, rfl, rfl, rfl, rfl⟩
    exact ⟨(k, a), trivial, rfl, rfl⟩
  · rintro ⟨⟨k, a⟩, -, ⟨⟩, rfl⟩
    exact ⟨k, a, rfl, rfl, rfl, rfl, rfl⟩

end

/-! ### How a command ends -/

section

variable (p : Prop) [Decidable p] (e : Raise) (s : State)

/-- A command with one check ends in the fault of the check, or in its commit. -/
theorem retire_ite {u : State} {Q : State → Prop} (hcommit : Q (complete u)) :
    ∃ t, retire s (if p then .error e else .ok u) = .next t ∧
      if p then CommandFault (raiseCode e) (raiseInfo e) s t else Q t := by
  by_cases hp : p
  · simp only [if_pos hp]
    exact ⟨_, rfl, commandFault_takeFault e s⟩
  · simp only [if_neg hp]
    exact ⟨_, rfl, hcommit⟩

/-- What the commit of `v` in buffer `rd` leaves. -/
theorem commits_setBuf (rd : BitVec 2) (v : Bytes) :
    let t := complete (setBuf rd v s)
    buf t rd = v ∧ Completed s t ∧ OnlyBuf rd s t :=
  ⟨buf_setBuf_self rd v s, completed_complete rfl, onlyBuf_complete_setBuf rd v s⟩

theorem retireBuf_ite (rd : BitVec 2) (v : Bytes) :
    ∃ t, retireBuf rd s (if p then .error e else .ok v) = .next t ∧
      if p then CommandFault (raiseCode e) (raiseInfo e) s t else buf t rd = v ∧ Completed s t ∧ OnlyBuf rd s t := by
  rw [retireBuf, apply_ite (Except.map _)]
  exact retire_ite p e s (commits_setBuf s rd v)

/-- What the commit of `v` as a key leaves. -/
theorem commits_setKey (kd : BitVec 3) (v : Bytes) :
    let t := complete (setKey kd v s)
    (slot t kd).key = v ∧ Completed s t ∧ OnlyKey kd s t :=
  ⟨by simp, completed_complete rfl, onlyKey_complete_setKey kd v s⟩

/-- What the commit of `v` as an IV leaves. -/
theorem commits_setIv (kd : BitVec 3) (v : Bytes) :
    let t := complete (setIv kd v s)
    (slot t kd).iv = v ∧ Completed s t ∧ OnlyIv kd s t :=
  ⟨by simp, completed_complete rfl, onlyIv_complete_setIv kd v s⟩

end

/-! ### The commands -/

/-- Settles O21. -/
theorem nopOnlyCompletes : Obligations.NopOnlyCompletes := by
  refine ⟨encoded_of_formatZ fun _ _ _ _ => rfl, fun s => ?_, fun s hf => ?_, ?_⟩
  · exact ⟨complete s, rfl, completed_complete rfl, onlyStatus_complete s⟩
  · have hdropped : ¬ (s.status.busy = false ∧ (s.status.fault = false ∨ opcodeOf 0#32 = 0x01#8)) := by
      simp [hf, opcodeOf]
    obtain ⟨-, hdrop, -⟩ := cmdWrite s 0#32
    simpa only [hf] using hdrop hdropped
  · exact ⟨complete (issue 0#32 State.reset), rfl, rfl⟩

/-- Settles O23. -/
theorem bufferCommands : Obligations.BufferCommands := by
  refine ⟨encoded_of_formatD fun _ _ _ _ => rfl, encoded_of_formatDS fun _ _ _ _ => rfl, fun rd s => ?_,
    fun rd ra s => ?_, encoded_of_formatDS fun _ _ _ _ => rfl, fun rd ra s => ?_⟩
  · exact ⟨_, rfl, commits_setBuf s rd []⟩
  · exact ⟨_, rfl, commits_setBuf s rd (buf s ra)⟩
  · intro n
    exact retireBuf_ite (n > s.cfg.cap) (.overflow n) s rd (buf s rd ++ buf s ra)

/-- Settles O24. -/
theorem ksetkKsetiv : Obligations.KsetkKsetiv := by
  refine ⟨encoded_of_formatKS fun _ _ _ _ => rfl, encoded_of_formatKS fun _ _ _ _ => rfl, fun kd ra s => ?_,
    fun kd ra s => ?_⟩
  · exact retire_ite ((buf s ra).length > keyCap) (.keyLen false) s (commits_setKey s kd (buf s ra))
  · exact retire_ite ((buf s ra).length > ivCap) (.keyLen true) s (commits_setIv s kd (buf s ra))

end Sys2Proof.Machine

/-! Base64 (41_base64.md R140 to R144): the alphabet, the encoding as the characters of a list of sextets, and decoding
as its inverse. -/

namespace Sys2Proof.Machine

/-! ### The alphabet -/

theorem alphaVal_alpha (v : BitVec 6) : alphaVal (alpha v) = some v := by
  have hv := v.isLt
  simp only [alpha]
  split_ifs with hupper hlower hdigit hplus <;> simp only [alphaVal, BitVec.toNat_ofNat]
  · rw [if_pos (by omega)]
    exact congrArg some (by bv_omega)
  · rw [if_neg (by omega), if_pos (by omega)]
    exact congrArg some (by bv_omega)
  · rw [if_neg (by omega), if_neg (by omega), if_pos (by omega)]
    exact congrArg some (by bv_omega)
  · exact congrArg some (by bv_omega)
  · exact congrArg some (by bv_omega)

theorem alpha_of_alphaVal {t : Byte} {v : BitVec 6} (h : alphaVal t = some v) : alpha v = t := by
  simp only [alphaVal] at h
  split_ifs at h with hupper hlower hdigit hplus hslash <;> cases h <;> simp only [alpha, BitVec.toNat_ofNat]
  · rw [if_pos (by omega)]
    bv_omega
  · rw [if_neg (by omega), if_pos (by omega)]
    bv_omega
  · rw [if_neg (by omega), if_neg (by omega), if_pos (by omega)]
    bv_omega
  · exact BitVec.eq_of_toNat_eq hplus.symm
  · exact BitVec.eq_of_toNat_eq hslash.symm

theorem alphaVal_padChar : alphaVal padChar = none := rfl

theorem alpha_ne_padChar (v : BitVec 6) : alpha v ≠ padChar := by
  intro h
  have hv := alphaVal_alpha v
  rw [h, alphaVal_padChar] at hv
  cases hv

/-! ### The sextets of a byte string -/

/-- The values whose characters `b64enc` writes: of each group of three bytes its four sextets, of a last shorter group
the sextets that hold bits of it (R141). -/
def b64Sextets : Bytes → List (BitVec 6)
  | [] => []
  | [x0] =>
    let v : BitVec 24 := x0 ++ 0#8 ++ 0#8
    [v.extractLsb' 18 6, v.extractLsb' 12 6]
  | [x0, x1] =>
    let v : BitVec 24 := x0 ++ x1 ++ 0#8
    [v.extractLsb' 18 6, v.extractLsb' 12 6, v.extractLsb' 6 6]
  | x0 :: x1 :: x2 :: rest =>
    let v : BitVec 24 := x0 ++ x1 ++ x2
    v.extractLsb' 18 6 :: v.extractLsb' 12 6 :: v.extractLsb' 6 6 :: v.extractLsb' 0 6 :: b64Sextets rest

/-- An encoding is the characters of the sextets, then some padding. -/
theorem b64enc_eq_map_alpha (pad : Bool) (x : Bytes) :
    ∃ n, b64enc pad x = (b64Sextets x).map alpha ++ List.replicate n padChar := by
  induction x using b64enc.induct with
  | case1 => exact ⟨0, rfl⟩
  | case2 =>
    cases pad with
    | false => exact ⟨0, rfl⟩
    | true => exact ⟨2, rfl⟩
  | case3 =>
    cases pad with
    | false => exact ⟨0, rfl⟩
    | true => exact ⟨1, rfl⟩
  | case4 x0 x1 x2 rest ih =>
    obtain ⟨n, hn⟩ := ih
    exact ⟨n, by simp [b64enc, b64Sextets, b64Head, hn]⟩

/-- The length of an encoding (R141). -/
theorem length_b64enc (pad : Bool) (x : Bytes) :
    (b64enc pad x).length = if pad then 4 * ((x.length + 2) / 3) else (4 * x.length + 2) / 3 := by
  induction x using b64enc.induct with
  | case1 => cases pad <;> rfl
  | case2 => cases pad <;> simp [b64enc, b64Head]
  | case3 => cases pad <;> simp [b64enc, b64Head]
  | case4 x0 x1 x2 rest ih =>
    simp only [b64enc, b64Head, List.length_append, List.length_cons, List.length_nil, ih]
    cases pad with
    | false => simp only [Bool.false_eq_true, if_false]; omega
    | true => simp only [if_true]; omega

/-! ### Decoding -/

/-- Steps 1 and 2 of R143 recover the values from their characters. -/
theorem b64Strip_map_alpha_append (vs : List (BitVec 6)) (n : Nat) :
    b64Strip (vs.map alpha ++ List.replicate n padChar) = vs := by
  induction vs with
  | nil => cases n <;> simp [b64Strip, List.replicate_succ]
  | cons v vs ih => simp [b64Strip, alpha_ne_padChar, alphaVal_alpha, ih]

theorem toNat_shiftIn (acc : BitVec 24) (v : BitVec 6) :
    (acc.extractLsb' 0 18 ++ v).toNat = acc.toNat * 64 % 2 ^ 24 + v.toNat := by
  rw [toNat_append_eq_add, BitVec.extractLsb'_toNat, Nat.shiftRight_zero]
  omega

theorem toNat_byteOut (acc : BitVec 24) (n : Nat) :
    ((acc >>> n).extractLsb' 0 8).toNat = acc.toNat / 2 ^ n % 2 ^ 8 := by
  simp [Nat.shiftRight_eq_div_pow]

theorem toNat_sextet (v : BitVec 24) (n : Nat) : (v.extractLsb' n 6).toNat = v.toNat / 2 ^ n % 2 ^ 6 := by
  simp [Nat.shiftRight_eq_div_pow]

theorem toNat_group (x0 x1 x2 : Byte) :
    (x0 ++ x1 ++ x2 : BitVec 24).toNat = x0.toNat * 2 ^ 16 + x1.toNat * 2 ^ 8 + x2.toNat := by
  simp only [toNat_append_eq_add]
  omega

/-- Step 3 of R143 puts the bytes together again: after each whole group no bit is left over, so what `acc` holds from
before does not matter. -/
theorem b64Bytes_b64Sextets (acc : BitVec 24) (x : Bytes) : b64Bytes acc 0 (b64Sextets x) = x := by
  induction x using b64Sextets.induct generalizing acc with
  | case1 => rfl
  | case2 x0 =>
    simp only [b64Sextets, b64Bytes, List.cons.injEq, Nat.reduceLeDiff, ↓reduceIte, Nat.reduceAdd, Nat.reduceSub,
      ge_iff_le]
    refine ⟨BitVec.eq_of_toNat_eq ?_, trivial⟩
    simp only [toNat_byteOut, toNat_shiftIn, toNat_sextet, toNat_group, BitVec.toNat_ofNat]
    omega
  | case3 x0 x1 =>
    simp only [b64Sextets, b64Bytes, List.cons.injEq, Nat.reduceLeDiff, ↓reduceIte, Nat.reduceAdd, Nat.reduceSub,
      ge_iff_le]
    refine ⟨BitVec.eq_of_toNat_eq ?_, BitVec.eq_of_toNat_eq ?_, trivial⟩ <;>
    · simp only [toNat_byteOut, toNat_shiftIn, toNat_sextet, toNat_group, BitVec.toNat_ofNat]
      omega
  | case4 x0 x1 x2 rest ih =>
    simp only [b64Sextets, b64Bytes, List.cons.injEq, Nat.reduceLeDiff, ↓reduceIte, Nat.reduceAdd, Nat.reduceSub,
      ge_iff_le]
    refine ⟨BitVec.eq_of_toNat_eq ?_, BitVec.eq_of_toNat_eq ?_, BitVec.eq_of_toNat_eq ?_, ih _⟩ <;>
    · simp only [toNat_byteOut, toNat_shiftIn, toNat_sextet, toNat_group]
      omega

theorem b64dec_b64enc (pad : Bool) (x : Bytes) : b64dec (b64enc pad x) = x := by
  obtain ⟨n, hn⟩ := b64enc_eq_map_alpha pad x
  rw [b64dec, hn, b64Strip_map_alpha_append, b64Bytes_b64Sextets]

/-- Settles O27. -/
theorem base64RoundTrip : Obligations.Base64RoundTrip :=
  ⟨fun pad x => ⟨b64dec_b64enc pad x, length_b64enc pad x⟩, alphaVal_alpha, fun _ _ => alpha_of_alphaVal,
    alphaVal_padChar⟩

end Sys2Proof.Machine

/-! UTF-8 (41_base64.md R145): a sequence that the table of R145 passes is the encoding of a scalar value, and so the
loop finds the end of the longest beginning made of such encodings. -/

namespace Sys2Proof.Machine

/-! ### The table -/

theorem utf8Row_one {b : Byte} (h : b.toNat < 0x80) : utf8Row b = some (0, 0, 0) := by
  simp only [utf8Row]
  rw [if_pos (by omega)]

theorem utf8Row_ofNat_two {p : Nat} (hlo : 2 ≤ p) (hhi : p < 0x20) :
    utf8Row (BitVec.ofNat 8 (0xC0 + p)) = some (1, 0x80, 0xBF) := by
  simp only [utf8Row, BitVec.toNat_ofNat]
  rw [if_neg (by omega), if_pos (by omega)]

theorem utf8Row_ofNat_three {p : Nat} (hp : p < 0x10) :
    utf8Row (BitVec.ofNat 8 (0xE0 + p)) =
      some (2, if p = 0 then 0x80 + 0x20 else 0x80, if p = 0xD then 0x7F + 0x20 else 0xBF) := by
  interval_cases p <;> rfl

theorem utf8Row_ofNat_four {p : Nat} (hp : p < 5) :
    utf8Row (BitVec.ofNat 8 (0xF0 + p)) =
      some (3, if p = 0 then 0x80 + 0x10 else 0x80, if p = 4 then 0x7F + 0x10 else 0xBF) := by
  interval_cases p <;> rfl

/-- The lead bytes that have a row. -/
theorem utf8Row_cases {b : Byte} {r : Nat × Nat × Nat} (h : utf8Row b = some r) :
    b.toNat < 0x80 ∨ (∃ p, 2 ≤ p ∧ p < 0x20 ∧ b = BitVec.ofNat 8 (0xC0 + p)) ∨
      (∃ p, p < 0x10 ∧ b = BitVec.ofNat 8 (0xE0 + p)) ∨ ∃ p, p < 5 ∧ b = BitVec.ofNat 8 (0xF0 + p) := by
  have hrange : b.toNat < 0x80 ∨ (0xC2 ≤ b.toNat ∧ b.toNat < 0xF5) := by
    simp only [utf8Row] at h
    split_ifs at h <;> omega
  rcases hrange with hone | ⟨hlo, hhi⟩
  · exact .inl hone
  · rcases Nat.lt_or_ge b.toNat 0xE0 with htwo | hge
    · exact .inr (.inl ⟨b.toNat - 0xC0, by omega, by omega, by bv_omega⟩)
    · rcases Nat.lt_or_ge b.toNat 0xF0 with hthree | hfour
      · exact .inr (.inr (.inl ⟨b.toNat - 0xE0, by omega, by bv_omega⟩))
      · exact .inr (.inr (.inr ⟨b.toNat - 0xF0, by omega, by bv_omega⟩))

section

variable {b : Byte} {n lo hi : Nat} {x : Bytes}

theorem utf8Need_of_row_zero (h : utf8Row b = some (0, lo, hi)) : utf8Need (b :: x) = some 0 := by
  simp [utf8Need, h]

theorem utf8Need_of_row_one (h : utf8Row b = some (1, lo, hi)) :
    utf8Need (b :: x) = some n ↔ (∃ t y, x = t :: y ∧ byteIn lo hi t) ∧ 1 = n := by
  cases x <;> simp [utf8Need, h]

theorem utf8Need_of_row_two (h : utf8Row b = some (2, lo, hi)) :
    utf8Need (b :: x) = some n ↔ (∃ t u y, x = t :: u :: y ∧ byteIn lo hi t ∧ byteIn 0x80 0xBF u) ∧ 2 = n := by
  rcases x with _ | ⟨t, _ | ⟨u, x⟩⟩ <;> simp [utf8Need, h]

theorem utf8Need_of_row_three (h : utf8Row b = some (3, lo, hi)) :
    utf8Need (b :: x) = some n ↔
      (∃ t u v y, x = t :: u :: v :: y ∧ byteIn lo hi t ∧ byteIn 0x80 0xBF u ∧ byteIn 0x80 0xBF v) ∧ 3 = n := by
  rcases x with _ | ⟨t, _ | ⟨u, _ | ⟨v, x⟩⟩⟩ <;> simp [utf8Need, h]

/-- The range of the first continuation byte: all of them, but after the lead `bot` those from `m` up, after `top` those
below `m`. -/
theorem byteIn_first_iff {t : Byte} {p bot top m : Nat} (hm : m < 0x40) :
    byteIn (if p = bot then 0x80 + m else 0x80) (if p = top then 0x7F + m else 0xBF) t ↔
      ∃ q, q < 0x40 ∧ (p = bot → m ≤ q) ∧ (p = top → q < m) ∧ t = BitVec.ofNat 8 (0x80 + q) := by
  simp only [byteIn, Bool.and_eq_true, decide_eq_true_eq]
  constructor
  · rintro ⟨hlow, hhigh⟩
    refine ⟨t.toNat - 0x80, ?_, ?_, ?_, ?_⟩ <;> split_ifs at hlow hhigh <;> bv_omega
  · rintro ⟨q, hq, hbot, htop, rfl⟩
    rw [BitVec.toNat_ofNat]
    constructor <;> split_ifs <;> omega

theorem byteIn_continuation_iff {t : Byte} :
    byteIn 0x80 0xBF t ↔ ∃ q, q < 0x40 ∧ t = BitVec.ofNat 8 (0x80 + q) := by
  simpa using byteIn_first_iff (t := t) (p := 0) (bot := 1) (top := 1) (m := 0) (by omega)

end

/-! ### Encodings of scalar values -/

/-- `Utf8Seq c e`: `c` is a scalar value and `e` its encoding, with the digits that the bytes of `e` carry. The bounds on
`q` keep out the forms that are not shortest, the surrogates, and what lies above U+10FFFF. -/
inductive Utf8Seq : Nat → Bytes → Prop where
  | one {p : Nat} : p < 0x80 → Utf8Seq p [BitVec.ofNat 8 p]
  | two {p q : Nat} : 2 ≤ p → p < 0x20 → q < 0x40 →
      Utf8Seq (p * 0x40 + q) [BitVec.ofNat 8 (0xC0 + p), BitVec.ofNat 8 (0x80 + q)]
  | three {p q r : Nat} : p < 0x10 → q < 0x40 → r < 0x40 → (p = 0 → 0x20 ≤ q) → (p = 0xD → q < 0x20) →
      Utf8Seq (p * 0x1000 + q * 0x40 + r)
        [BitVec.ofNat 8 (0xE0 + p), BitVec.ofNat 8 (0x80 + q), BitVec.ofNat 8 (0x80 + r)]
  | four {p q r s : Nat} : p < 5 → q < 0x40 → r < 0x40 → s < 0x40 → (p = 0 → 0x10 ≤ q) → (p = 4 → q < 0x10) →
      Utf8Seq (p * 0x40000 + q * 0x1000 + r * 0x40 + s)
        [BitVec.ofNat 8 (0xF0 + p), BitVec.ofNat 8 (0x80 + q), BitVec.ofNat 8 (0x80 + r), BitVec.ofNat 8 (0x80 + s)]

theorem utf8Seq_encode {c : Nat} (h : IsScalar c) : Utf8Seq c (utf8Encode c) := by
  unfold IsScalar at h
  unfold utf8Encode
  split_ifs with hone htwo hthree
  · exact .one hone
  · have hc : c = c / 0x40 * 0x40 + c % 0x40 := by omega
    conv => arg 1; rw [hc]
    exact .two (by omega) (by omega) (by omega)
  · have hc : c = c / 0x1000 * 0x1000 + c / 0x40 % 0x40 * 0x40 + c % 0x40 := by omega
    conv => arg 1; rw [hc]
    exact .three (by omega) (by omega) (by omega) (by omega) (by omega)
  · have hc : c = c / 0x40000 * 0x40000 + c / 0x1000 % 0x40 * 0x1000 + c / 0x40 % 0x40 * 0x40 + c % 0x40 := by omega
    conv => arg 1; rw [hc]
    exact .four (by omega) (by omega) (by omega) (by omega) (by omega) (by omega)

theorem Utf8Seq.pos {c : Nat} {e : Bytes} (h : Utf8Seq c e) : 0 < e.length := by
  cases h <;> simp

theorem Utf8Seq.isScalar {c : Nat} {e : Bytes} (h : Utf8Seq c e) : IsScalar c := by
  unfold IsScalar
  cases h <;> omega

theorem Utf8Seq.eq_encode {c : Nat} {e : Bytes} (h : Utf8Seq c e) : e = utf8Encode c := by
  unfold utf8Encode
  cases h with
  | one hp => rw [if_pos hp]
  | two hlo hhi hq =>
    rw [if_neg (by omega), if_pos (by omega)]
    congr <;> omega
  | three hp hq hr hlo hhi =>
    rw [if_neg (by omega), if_neg (by omega), if_pos (by omega)]
    congr <;> omega
  | four hp hq hr hs hlo hhi =>
    rw [if_neg (by omega), if_neg (by omega), if_neg (by omega)]
    congr <;> omega

/-- The check passes what begins with an encoding. -/
theorem Utf8Seq.need {c : Nat} {e : Bytes} (h : Utf8Seq c e) (x : Bytes) : utf8Need (e ++ x) = some (e.length - 1) := by
  cases h with
  | one hp => exact utf8Need_of_row_zero (utf8Row_one (by rw [BitVec.toNat_ofNat]; omega))
  | two hlo hhi hq =>
    exact (utf8Need_of_row_one (utf8Row_ofNat_two hlo hhi)).2 ⟨⟨_, x, rfl, byteIn_continuation_iff.2 ⟨_, hq, rfl⟩⟩, rfl⟩
  | three hp hq hr hlo hhi =>
    exact (utf8Need_of_row_two (utf8Row_ofNat_three hp)).2
      ⟨⟨_, _, x, rfl, (byteIn_first_iff (by omega)).2 ⟨_, hq, hlo, hhi, rfl⟩,
        byteIn_continuation_iff.2 ⟨_, hr, rfl⟩⟩, rfl⟩
  | four hp hq hr hs hlo hhi =>
    exact (utf8Need_of_row_three (utf8Row_ofNat_four hp)).2
      ⟨⟨_, _, _, x, rfl, (byteIn_first_iff (by omega)).2 ⟨_, hq, hlo, hhi, rfl⟩,
        byteIn_continuation_iff.2 ⟨_, hr, rfl⟩, byteIn_continuation_iff.2 ⟨_, hs, rfl⟩⟩, rfl⟩

/-- What the check passes begins with an encoding. -/
theorem exists_utf8Seq_of_need {x : Bytes} {n : Nat} (h : utf8Need x = some n) :
    ∃ c e y, Utf8Seq c e ∧ x = e ++ y := by
  cases x with
  | nil => cases h
  | cons b x =>
    have hrow : ∃ r, utf8Row b = some r := by
      cases hr : utf8Row b with
      | none => simp [utf8Need, hr] at h
      | some r => exact ⟨r, rfl⟩
    obtain ⟨r, hr⟩ := hrow
    obtain hone | ⟨p, hlo, hhi, rfl⟩ | ⟨p, hp, rfl⟩ | ⟨p, hp, rfl⟩ := utf8Row_cases hr
    · refine ⟨b.toNat, _, x, .one hone, ?_⟩
      rw [BitVec.ofNat_toNat, BitVec.setWidth_eq, List.singleton_append]
    · obtain ⟨⟨t, y, rfl, ht⟩, -⟩ := (utf8Need_of_row_one (utf8Row_ofNat_two hlo hhi)).1 h
      obtain ⟨q, hq, rfl⟩ := byteIn_continuation_iff.1 ht
      exact ⟨_, _, y, .two hlo hhi hq, rfl⟩
    · obtain ⟨⟨t, u, y, rfl, ht, hu⟩, -⟩ := (utf8Need_of_row_two (utf8Row_ofNat_three hp)).1 h
      obtain ⟨q, hq, hqlo, hqhi, rfl⟩ := (byteIn_first_iff (by omega)).1 ht
      obtain ⟨r, hr, rfl⟩ := byteIn_continuation_iff.1 hu
      exact ⟨_, _, y, .three hp hq hr hqlo hqhi, rfl⟩
    · obtain ⟨⟨t, u, v, y, rfl, ht, hu, hv⟩, -⟩ := (utf8Need_of_row_three (utf8Row_ofNat_four hp)).1 h
      obtain ⟨q, hq, hqlo, hqhi, rfl⟩ := (byteIn_first_iff (by omega)).1 ht
      obtain ⟨r, hr, rfl⟩ := byteIn_continuation_iff.1 hu
      obtain ⟨s, hs, rfl⟩ := byteIn_continuation_iff.1 hv
      exact ⟨_, _, y, .four hp hq hr hs hqlo hqhi, rfl⟩

/-! ### The loop -/

theorem utf8BadFrom_skip (i k : Nat) (x : Bytes) : utf8BadFrom i k x = utf8BadFrom (i + k) 0 (x.drop k) := by
  induction x generalizing i k with
  | nil => cases k <;> rfl
  | cons b x ih =>
    cases k with
    | zero => rfl
    | succ k =>
      have hik : i + 1 + k = i + (k + 1) := by omega
      rw [utf8BadFrom, ih, hik, List.drop_succ_cons]

theorem utf8BadFrom_of_need_none (i : Nat) {x : Bytes} (hx : x ≠ []) (h : utf8Need x = none) :
    utf8BadFrom i 0 x = some i := by
  cases x with
  | nil => exact absurd rfl hx
  | cons b x => rw [utf8BadFrom, h]

theorem utf8BadFrom_of_need (i : Nat) {x : Bytes} {n : Nat} (h : utf8Need x = some n) :
    utf8BadFrom i 0 x = utf8BadFrom (i + (n + 1)) 0 (x.drop (n + 1)) := by
  cases x with
  | nil => cases h
  | cons b x =>
    have hik : i + 1 + n = i + (n + 1) := by omega
    simp only [utf8BadFrom, h, utf8BadFrom_skip (i + 1) n, hik, List.drop_succ_cons]

theorem utf8BadFrom_encode_append (i : Nat) {c : Nat} (hc : IsScalar c) (x : Bytes) :
    utf8BadFrom i 0 (utf8Encode c ++ x) = utf8BadFrom (i + (utf8Encode c).length) 0 x := by
  have hseq := utf8Seq_encode hc
  have hlen : (utf8Encode c).length - 1 + 1 = (utf8Encode c).length := by have := hseq.pos; omega
  rw [utf8BadFrom_of_need i (hseq.need x), hlen, List.drop_left]

theorem utf8BadFrom_flatMap_append (i : Nat) {cs : List Nat} (hcs : ∀ c ∈ cs, IsScalar c) (x : Bytes) :
    utf8BadFrom i 0 (cs.flatMap utf8Encode ++ x) = utf8BadFrom (i + (cs.flatMap utf8Encode).length) 0 x := by
  induction cs generalizing i with
  | nil => rfl
  | cons c cs ih =>
    obtain ⟨hc, hcs⟩ := List.forall_mem_cons.1 hcs
    rw [List.flatMap_cons, List.append_assoc, utf8BadFrom_encode_append i hc, ih _ hcs, List.length_append,
      Nat.add_assoc]

/-- Every byte string is encodings of scalar values, then a rest that does not begin with one. -/
theorem exists_scalars_append (x : Bytes) :
    ∃ (cs : List Nat) (y : Bytes), (∀ c ∈ cs, IsScalar c) ∧ x = cs.flatMap utf8Encode ++ y ∧ utf8Need y = none := by
  induction hn : x.length using Nat.strong_induction_on generalizing x with
  | _ n ih =>
    cases hneed : utf8Need x with
    | none => exact ⟨[], x, nofun, rfl, hneed⟩
    | some k =>
      obtain ⟨c, e, y, hseq, rfl⟩ := exists_utf8Seq_of_need hneed
      have hlt : y.length < n := by have := hseq.pos; rw [List.length_append] at hn; omega
      obtain ⟨cs, z, hcs, rfl, hz⟩ := ih _ hlt y rfl
      refine ⟨c :: cs, z, List.forall_mem_cons.2 ⟨hseq.isScalar, hcs⟩, ?_, hz⟩
      rw [List.flatMap_cons, ← hseq.eq_encode, List.append_assoc]

theorem not_begins_with_encode_of_need_none {x : Bytes} (h : utf8Need x = none) {c : Nat} (hc : IsScalar c) :
    ¬ utf8Encode c <+: x := by
  rintro ⟨y, rfl⟩
  rw [(utf8Seq_encode hc).need] at h
  cases h

theorem utf8Bad_flatMap {cs : List Nat} (hcs : ∀ c ∈ cs, IsScalar c) : utf8Bad (cs.flatMap utf8Encode) = none := by
  have h := utf8BadFrom_flatMap_append 0 hcs []
  rwa [List.append_nil] at h

theorem utf8Bad_flatMap_append {cs : List Nat} (hcs : ∀ c ∈ cs, IsScalar c) {y : Bytes} (hy : y ≠ [])
    (hneed : utf8Need y = none) : utf8Bad (cs.flatMap utf8Encode ++ y) = some (cs.flatMap utf8Encode).length := by
  rw [utf8Bad, utf8BadFrom_flatMap_append 0 hcs, utf8BadFrom_of_need_none _ hy hneed, Nat.zero_add]

/-- Settles O28, by splitting `x` into encodings and a rest: the loop passes over the encodings, and stops at the rest
unless it is empty. -/
theorem utf8WellFormed : Obligations.Utf8WellFormed := by
  intro x
  obtain ⟨cs, y, hcs, rfl, hneed⟩ := exists_scalars_append x
  by_cases hy : y = []
  · subst hy
    rw [List.append_nil, utf8Bad_flatMap hcs]
    exact ⟨⟨fun _ => ⟨cs, hcs, rfl⟩, fun _ => rfl⟩, nofun⟩
  · have hbad := utf8Bad_flatMap_append hcs hy hneed
    refine ⟨⟨fun h => ?_, ?_⟩, fun i hi => ?_⟩
    · rw [hbad] at h; cases h
    · rintro ⟨cs', hcs', h⟩
      rw [h]; exact utf8Bad_flatMap hcs'
    · cases hbad.symm.trans hi
      rw [List.take_left, List.drop_left]
      refine ⟨?_, utf8Bad_flatMap hcs, fun c hc => not_begins_with_encode_of_need_none hneed hc⟩
      rw [List.length_append]
      have := List.length_pos_iff.2 hy
      omega

end Sys2Proof.Machine

/-! The Base64 and UTF-8 commands (41_base64.md R146 to R148): their words, their effect and their frame. -/

namespace Sys2Proof.Machine

theorem encoded_of_formatDSMOption {op : BitVec 8} {mk : BitVec 2 → BitVec 2 → Bool → Instr}
    (h : ∀ rd ra rb imm, decodeFields ⟨op, rd, ra, rb, imm⟩ = formatDSMOption ⟨op, rd, ra, rb, imm⟩ mk) :
    Encoded op (fun x : BitVec 2 × BitVec 2 × Bool => (bufField x.1, bufField x.2.1, 0#4, optionField x.2.2 false))
      (fun _ => True) (fun x => mk x.1 x.2.1 x.2.2) := by
  refine encoded_of_decodeFields_iff fun rd ra rb imm i => ?_
  rw [h, formatDSMOption_eq_ok_iff]
  constructor
  · rintro ⟨d, a, u, rfl, rfl, rfl, rfl, rfl⟩
    exact ⟨(d, a, u), trivial, rfl, rfl⟩
  · rintro ⟨⟨d, a, u⟩, -, ⟨⟩, rfl⟩
    exact ⟨d, a, u, rfl, rfl, rfl, rfl, rfl⟩

theorem encoded_of_formatS {op : BitVec 8} {mk : BitVec 2 → Instr}
    (h : ∀ rd ra rb imm, decodeFields ⟨op, rd, ra, rb, imm⟩ = formatS ⟨op, rd, ra, rb, imm⟩ mk) :
    Encoded op (fun a : BitVec 2 => (0#4, bufField a, 0#4, 0#12)) (fun _ => True) mk := by
  refine encoded_of_decodeFields_iff fun rd ra rb imm i => ?_
  rw [h, formatS_eq_ok_iff]
  constructor
  · rintro ⟨a, rfl, rfl, rfl, rfl, rfl⟩
    exact ⟨a, trivial, rfl, rfl⟩
  · rintro ⟨a, -, ⟨⟩, rfl⟩
    exact ⟨a, rfl, rfl, rfl, rfl, rfl⟩

theorem utf8Checked_of_none {x : Bytes} (h : utf8Bad x = none) : utf8Checked x = .ok x := by
  simp only [utf8Checked, h]

theorem utf8Checked_of_some {x : Bytes} {i : Nat} (h : utf8Bad x = some i) : utf8Checked x = .error (.malformed i) := by
  simp only [utf8Checked, h]

/-- The check that the option `U` asks for (R147). -/
theorem utf8Option_eq (u : Bool) (x : Bytes) :
    (if u then utf8Checked x else .ok x) =
      (if u then utf8Bad x else none).elim (.ok x) fun i => .error (.malformed i) := by
  cases u with
  | false => rfl
  | true =>
    cases h : utf8Bad x with
    | none => simp [utf8Checked_of_none h]
    | some i => simp [utf8Checked_of_some h]

/-- Settles O25. -/
theorem b64encCommand : Obligations.B64enc := by
  refine ⟨encoded_of_formatDSMOption fun _ _ _ _ => rfl, fun rd ra u s => ?_⟩
  intro m
  exact retireBuf_ite (m > s.cfg.cap) (.overflow m) s rd (b64enc s.ctrl.b64Pad (buf s ra))

/-- Settles O26. -/
theorem b64decU8chk : Obligations.B64decU8chk := by
  refine ⟨encoded_of_formatDSMOption fun _ _ _ _ => rfl, fun rd ra u s => ?_, encoded_of_formatS fun _ _ _ _ => rfl,
    fun ra s => ?_⟩
  · intro r
    rw [show exec (.b64dec rd ra u) s = retireBuf rd s (if u then utf8Checked r else .ok r) from rfl, utf8Option_eq]
    cases (if u then utf8Bad r else none) with
    | none => exact ⟨_, rfl, commits_setBuf s rd r⟩
    | some i => exact ⟨_, rfl, commandFault_takeFault (.malformed i) s⟩
  · rw [show exec (.u8chk ra) s = retire s ((utf8Checked (buf s ra)).map fun _ => s) from rfl]
    cases h : utf8Bad (buf s ra) with
    | none =>
      rw [utf8Checked_of_none h]
      exact ⟨_, rfl, completed_complete rfl, onlyStatus_complete s⟩
    | some i =>
      rw [utf8Checked_of_some h]
      exact ⟨_, rfl, commandFault_takeFault (.malformed i) s⟩

end Sys2Proof.Machine

/-! MD5 (42_md5.md): the blocks of a string in two parts, and with them absorbing in two parts (R168) or any number of
chunks; and the padding (R167). -/

namespace Sys2Proof.Machine

/-! ### Absorbing -/

/-- Blocks are compressed one after the other: first `m` of them, then `n` of the rest. -/
theorem md5Blocks_add (h : Accum) (d : Bytes) (m n : Nat) :
    md5Blocks h d (m + n) = md5Blocks (md5Blocks h d m) (d.drop (64 * m)) n := by
  induction m generalizing h d with
  | zero => simp [md5Blocks]
  | succ m ih =>
    have hsucc : m + 1 + n = m + n + 1 := by omega
    have hdrop : 64 + 64 * m = 64 * (m + 1) := by omega
    rw [hsucc, md5Blocks, md5Blocks, ih, List.drop_drop, hdrop]

/-- Only the bytes of the `n` blocks matter. -/
theorem md5Blocks_append (h : Accum) {d : Bytes} (e : Bytes) {n : Nat} (hn : 64 * n ≤ d.length) :
    md5Blocks h (d ++ e) n = md5Blocks h d n := by
  induction n generalizing h d with
  | zero => rfl
  | succ n ih =>
    have hrest : 64 * n ≤ (d.drop 64).length := by rw [List.length_drop]; omega
    rw [md5Blocks, md5Blocks, List.take_append_of_le_length (by omega), List.drop_append_of_le_length (by omega),
      ih _ hrest]

section

variable {d : Bytes} (e : Bytes) {m : Nat} (hm : 64 * m ≤ d.length)
include hm

/-- The blocks of `d ++ e` are `m` blocks of `d`, and those of what is left of `d`, then `e`. -/
theorem blockCount_append : (d ++ e).length / 64 = m + (d.drop (64 * m) ++ e).length / 64 := by
  simp only [List.length_append, List.length_drop]
  omega

theorem md5Blocks_append_add (h : Accum) (n : Nat) :
    md5Blocks h (d ++ e) (m + n) = md5Blocks (md5Blocks h d m) (d.drop (64 * m) ++ e) n := by
  rw [md5Blocks_add, md5Blocks_append _ _ hm, List.drop_append_of_le_length hm]

theorem drop_blocks_append_add (n : Nat) :
    (d ++ e).drop (64 * (m + n)) = (d.drop (64 * m) ++ e).drop (64 * n) := by
  rw [Nat.mul_add, ← List.drop_drop, List.drop_append_of_le_length hm]

end

/-- Absorbing is incremental (R168): the blocks of the second part begin where those of the first end. -/
theorem md5Absorb_append (ctx : Md5Ctx) (x y : Bytes) :
    md5Absorb (md5Absorb ctx x) y = md5Absorb ctx (x ++ y) := by
  have hm : 64 * ((ctx.buf ++ x).length / 64) ≤ (ctx.buf ++ x).length := Nat.mul_div_le ..
  have hlen : ctx.len + BitVec.ofNat 64 (8 * x.length) + BitVec.ofNat 64 (8 * y.length) =
      ctx.len + BitVec.ofNat 64 (8 * (x ++ y).length) := by
    rw [List.length_append, Nat.mul_add, BitVec.ofNat_add, BitVec.add_assoc]
  simp only [md5Absorb, ← List.append_assoc ctx.buf]
  rw [blockCount_append y hm, md5Blocks_append_add y hm, drop_blocks_append_add y hm, hlen]

/-- Chunk by chunk, absorbing is absorbing their concatenation. -/
theorem foldl_md5Absorb (ctx : Md5Ctx) (x : Bytes) (xs : List Bytes) :
    xs.foldl md5Absorb (md5Absorb ctx x) = md5Absorb ctx (x ++ xs.flatten) := by
  induction xs generalizing x with
  | nil => simp
  | cons y ys ih => rw [List.foldl_cons, md5Absorb_append, ih, List.flatten_cons, List.append_assoc]

theorem foldl_md5Absorb_init (xs : List Bytes) :
    xs.foldl md5Absorb Md5Ctx.init = md5Absorb Md5Ctx.init xs.flatten :=
  foldl_md5Absorb Md5Ctx.init [] xs

/-! ### Padding -/

theorem toNat_getD_bytesLe32 (w : Word) {j : Nat} (hj : j < 4) :
    ((bytesLe32 w).getD j 0#8).toNat = w.toNat / 256 ^ j % 256 := by
  interval_cases j <;> simp [bytesLe32, Nat.shiftRight_eq_div_pow]

theorem toNat_getD_bytesLe64 (v : BitVec 64) {j : Nat} (hj : j < 8) :
    ((bytesLe64 v).getD j 0#8).toNat = v.toNat / 256 ^ j % 256 := by
  rw [bytesLe64]
  rcases Nat.lt_or_ge j 4 with hlow | hhigh
  · rw [List.getD_append _ _ _ _ hlow, toNat_getD_bytesLe32 _ hlow]
    interval_cases j <;> simp <;> omega
  · rw [List.getD_append_right _ _ _ _ hhigh, length_bytesLe32, toNat_getD_bytesLe32 _ (by omega)]
    interval_cases j <;> simp [Nat.shiftRight_eq_div_pow] <;> omega

section

variable {r : Bytes} (len : BitVec 64)

/-- A padded tail is one block up to 55 bytes, and two from 56 on (R167). -/
theorem length_md5Pad (hr : r.length < 64) : (md5Pad r len).length = if r.length ≤ 55 then 64 else 128 := by
  simp only [md5Pad, List.length_append, List.length_cons, List.length_replicate, length_bytesLe64]
  split <;> omega

theorem append_prefix_md5Pad : r ++ [0x80#8] <+: md5Pad r len :=
  ⟨List.replicate ((119 - r.length % 64) % 64) 0#8 ++ bytesLe64 len, by simp [md5Pad]⟩

/-- Between the byte 0x80 and the last eight bytes the padding is zero. -/
theorem md5Pad_getD_zero {i : Nat} (hlow : r.length < i) (hhigh : i + 8 < (md5Pad r len).length) :
    (md5Pad r len).getD i 0#8 = 0#8 := by
  obtain ⟨k, rfl⟩ : ∃ k, i = r.length + (k + 1) := ⟨i - r.length - 1, by omega⟩
  rw [md5Pad, List.length_append, length_bytesLe64] at hhigh
  have hk : k < (119 - r.length % 64) % 64 := by
    simp only [List.length_append, List.length_cons, List.length_replicate] at hhigh
    omega
  rw [md5Pad, List.getD_append _ _ _ _ (by omega), List.getD_append_right _ _ _ _ (Nat.le_add_right ..),
    Nat.add_sub_cancel_left, List.getD_cons_succ, List.getD_replicate _ hk]

theorem md5Pad_getD_length {j : Nat} (hj : j < 8) :
    ((md5Pad r len).getD ((md5Pad r len).length - 8 + j) 0#8).toNat = len.toNat / 256 ^ j % 256 := by
  have hlast : (md5Pad r len).length - 8 + j =
      (r ++ 0x80#8 :: List.replicate ((119 - r.length % 64) % 64) 0#8).length + j := by
    rw [md5Pad, List.length_append, length_bytesLe64, Nat.add_sub_cancel]
  rw [hlast, md5Pad, List.getD_append_right _ _ _ _ (Nat.le_add_right ..), Nat.add_sub_cancel_left,
    toNat_getD_bytesLe64 len hj]

end

/-- Settles O32. -/
theorem md5AbsorbLaws : Obligations.Md5Absorb :=
  ⟨md5Absorb_append, fun _ len hr =>
    ⟨length_md5Pad len hr, append_prefix_md5Pad len, fun _ => md5Pad_getD_zero len, fun _ => md5Pad_getD_length len⟩⟩

end Sys2Proof.Machine

/-! The MD5 commands (42_md5.md R171 to R174, R177): their words, their effect and their frame, and the split law of the
commands (R178). -/

namespace Sys2Proof.Machine

/-! ### Words with a digest format -/

section

variable {op : BitVec 8}

theorem encoded_of_formatDM {mk : BitVec 2 → BitVec 2 → Instr}
    (h : ∀ rd ra rb imm, decodeFields ⟨op, rd, ra, rb, imm⟩ = formatDM ⟨op, rd, ra, rb, imm⟩ mk) :
    Encoded op (fun x : BitVec 2 × BitVec 2 => (bufField x.1, 0#4, 0#4, selectorField x.2)) (fun x => x.2 ≠ 3#2)
      (fun x => mk x.1 x.2) := by
  refine encoded_of_decodeFields_iff fun rd ra rb imm i => ?_
  rw [h, formatDM_eq_ok_iff]
  constructor
  · rintro ⟨d, m, rfl, rfl, rfl, rfl, hm, rfl⟩
    exact ⟨(d, m), hm, rfl, rfl⟩
  · rintro ⟨⟨d, m⟩, hm, ⟨⟩, rfl⟩
    exact ⟨d, m, rfl, rfl, rfl, rfl, hm, rfl⟩

theorem encoded_of_formatDSMSelector {mk : BitVec 2 → BitVec 2 → BitVec 2 → Instr}
    (h : ∀ rd ra rb imm, decodeFields ⟨op, rd, ra, rb, imm⟩ = formatDSMSelector ⟨op, rd, ra, rb, imm⟩ mk) :
    Encoded op
      (fun x : BitVec 2 × BitVec 2 × BitVec 2 => (bufField x.1, bufField x.2.1, 0#4, selectorField x.2.2))
      (fun x => x.2.2 ≠ 3#2) (fun x => mk x.1 x.2.1 x.2.2) := by
  refine encoded_of_decodeFields_iff fun rd ra rb imm i => ?_
  rw [h, formatDSMSelector_eq_ok_iff]
  constructor
  · rintro ⟨d, a, m, rfl, rfl, rfl, rfl, hm, rfl⟩
    exact ⟨(d, a, m), hm, rfl, rfl⟩
  · rintro ⟨⟨d, a, m⟩, hm, ⟨⟩, rfl⟩
    exact ⟨d, a, m, rfl, rfl, rfl, rfl, hm, rfl⟩

theorem encoded_of_formatDST {mk : BitVec 2 → BitVec 2 → BitVec 2 → BitVec 2 → Instr}
    (h : ∀ rd ra rb imm, decodeFields ⟨op, rd, ra, rb, imm⟩ = formatDST ⟨op, rd, ra, rb, imm⟩ mk) :
    Encoded op
      (fun x : BitVec 2 × BitVec 2 × BitVec 2 × BitVec 2 =>
        (bufField x.1, bufField x.2.1, bufField x.2.2.1, selectorField x.2.2.2))
      (fun x => x.2.2.2 ≠ 3#2) (fun x => mk x.1 x.2.1 x.2.2.1 x.2.2.2) := by
  refine encoded_of_decodeFields_iff fun rd ra rb imm i => ?_
  rw [h, formatDST_eq_ok_iff]
  constructor
  · rintro ⟨d, a, b, m, rfl, rfl, rfl, rfl, hm, rfl⟩
    exact ⟨(d, a, b, m), hm, rfl, rfl⟩
  · rintro ⟨⟨d, a, b, m⟩, hm, ⟨⟩, rfl⟩
    exact ⟨d, a, b, m, rfl, rfl, rfl, rfl, hm, rfl⟩

end

/-! ### The digest in a format -/

/-- A digest is put in its place as the text of its format, but for the reserved format (R93, R170). -/
theorem digestFormatChecked_map {α : Type} (fmt : BitVec 2) (c : Ctrl) (d : Bytes) (place : Bytes → α) :
    ((digestFormatChecked fmt).map fun f => place (render c f d)) =
      if fmt = 3#2 then .error .illegal else .ok (place (digestText c fmt d)) := by
  obtain rfl | rfl | rfl | rfl : fmt = 0#2 ∨ fmt = 1#2 ∨ fmt = 2#2 ∨ fmt = 3#2 := by revert fmt; decide
  all_goals rfl

/-- A command that only puts a digest in buffer `rd`, in a format. -/
theorem retireBuf_digest (rd fmt : BitVec 2) (d : Bytes) (s : State) :
    ∃ t, retireBuf rd s ((digestFormatChecked fmt).map fun f => render s.ctrl f d) = .next t ∧
      if fmt = 3#2 then CommandFault 0x01#8 0#24 s t
      else buf t rd = digestText s.ctrl fmt d ∧ Completed s t ∧ OnlyBuf rd s t := by
  rw [digestFormatChecked_map fmt s.ctrl d fun v => v]
  exact retireBuf_ite (fmt = 3#2) .illegal s rd (digestText s.ctrl fmt d)

/-! ### The commands -/

/-- What the commit of the context `m` leaves. -/
theorem onlyMd_complete (m : Md5Ctx) (s : State) : OnlyMd s (complete { s with md := m }) where
  control := ⟨rfl, rfl, rfl, rfl, rfl, rfl, rfl, rfl, rfl, rfl, rfl, rfl, rfl, rfl⟩
  bufs _ := rfl
  slots _ := rfl

theorem exec_md5init (s : State) : exec .md5init s = .next (complete { s with md := Md5Ctx.init }) := rfl

theorem exec_md5upd (ra : BitVec 2) (s : State) :
    exec (.md5upd ra) s = .next (complete { s with md := md5Absorb s.md (buf s ra) }) := rfl

/-- Settles O29. -/
theorem md5InitUpd : Obligations.Md5InitUpd :=
  ⟨encoded_of_formatZ fun _ _ _ _ => rfl, encoded_of_formatS fun _ _ _ _ => rfl,
    fun s => ⟨_, exec_md5init s, rfl, completed_complete rfl, onlyMd_complete _ s⟩,
    fun ra s => ⟨_, exec_md5upd ra s, rfl, completed_complete rfl, onlyMd_complete _ s⟩⟩

/-- Settles O30. -/
theorem md5Fin : Obligations.Md5Fin := by
  refine ⟨encoded_of_formatDM fun _ _ _ _ => rfl, fun rd fmt s => ?_⟩
  obtain ⟨hbuf, hdone, -⟩ := commits_setBuf { s with md := Md5Ctx.init } rd (digestText s.ctrl fmt (md5Finish s.md))
  change ∃ t, retire s ((digestFormatChecked fmt).map fun f =>
    setBuf rd (render s.ctrl f (md5Finish s.md)) { s with md := Md5Ctx.init }) = .next t ∧ _
  rw [digestFormatChecked_map fmt s.ctrl (md5Finish s.md) fun v => setBuf rd v { s with md := Md5Ctx.init }]
  exact retire_ite (fmt = 3#2) .illegal s ⟨hbuf, rfl, hdone, onlyBuf_complete_setBuf rd _ s⟩

/-- Settles O31. -/
theorem md5Hmac : Obligations.Md5Hmac :=
  ⟨encoded_of_formatDSMSelector fun _ _ _ _ => rfl, encoded_of_formatDST fun _ _ _ _ => rfl,
    fun rd ra fmt s => retireBuf_digest rd fmt (md5Sum (buf s ra)) s,
    fun rd ra rb fmt s => retireBuf_digest rd fmt (hmacMd5 (buf s ra) (buf s rb)) s⟩

/-! ### The split law -/

theorem md5UpdAll_cons (s : State) (x : Bytes) (xs : List Bytes) :
    md5UpdAll s (x :: xs) = md5UpdAll (complete { setBuf 0#2 x s with md := md5Absorb s.md x }) xs := by
  rw [md5UpdAll, exec_md5upd, buf_setBuf_self]
  rfl

/-- Feeding chunks absorbs them in order, under the same `CTRL`, and each command completes. -/
theorem md5UpdAll_next (s : State) (xs : List Bytes) :
    ∃ t, md5UpdAll s xs = .next t ∧ t.md = xs.foldl md5Absorb s.md ∧ t.ctrl = s.ctrl ∧
      statusCompleted t.status = statusCompleted s.status := by
  induction xs generalizing s with
  | nil => exact ⟨s, rfl, rfl, rfl, rfl⟩
  | cons x xs ih =>
    rw [md5UpdAll_cons]
    exact ih _

/-- Settles O33: the chunks leave the context that absorbing their concatenation at once gives. -/
theorem md5Split : Obligations.Md5Split := by
  intro s xs rd fmt hfmt
  obtain ⟨t, ht, hmd, hctrl, hstatus⟩ := md5UpdAll_next (complete { s with md := Md5Ctx.init }) xs
  obtain ⟨-, hfin⟩ := md5Fin
  obtain ⟨-, -, hsum, -⟩ := md5Hmac
  obtain ⟨u, hu, hcommit⟩ := hfin rd fmt t
  obtain ⟨v, hv, hcommit'⟩ := hsum rd 0#2 fmt (setBuf 0#2 xs.flatten s)
  rw [if_neg hfmt] at hcommit hcommit'
  obtain ⟨hubuf, -, hudone, -⟩ := hcommit
  obtain ⟨hvbuf, hvdone, -⟩ := hcommit'
  have hdigest : md5Finish t.md = md5Sum xs.flatten := by
    rw [hmd]
    exact congrArg md5Finish (foldl_md5Absorb_init xs)
  refine ⟨_, t, u, v, exec_md5init s, ht, hu, hv, ?_, ?_, hvdone⟩
  · rw [hubuf, hvbuf, hctrl, hdigest, buf_setBuf_self]
    rfl
  · calc
      u.status = statusCompleted t.status := hudone
      _ = v.status := hstatus.trans hvdone.symm

end Sys2Proof.Machine

/-! DES (43_des.md R200 to R212): bit strings and bytes, permutations of bit strings, the Feistel rounds, and decryption
as the inverse of encryption. -/

namespace Sys2Proof.Machine

/-! ### Bytes as bits -/

theorem bytesOfBits_bitsOfByte_append (b : Byte) (z : Bits) :
    bytesOfBits (bitsOfByte b ++ z) = b :: bytesOfBits z := by
  have hbyte : byteOfBits (b.getLsbD 7) (b.getLsbD 6) (b.getLsbD 5) (b.getLsbD 4) (b.getLsbD 3) (b.getLsbD 2)
      (b.getLsbD 1) (b.getLsbD 0) = b := by revert b; decide
  simp only [bitsOfByte, List.cons_append, List.nil_append, bytesOfBits, hbyte]

theorem bitsOfByte_byteOfBits (b7 b6 b5 b4 b3 b2 b1 b0 : Bool) :
    bitsOfByte (byteOfBits b7 b6 b5 b4 b3 b2 b1 b0) = [b7, b6, b5, b4, b3, b2, b1, b0] := by
  simp only [bitsOfByte, byteOfBits, BitVec.getLsbD_append]
  simp

theorem bitsOfBytes_cons (b : Byte) (x : Bytes) : bitsOfBytes (b :: x) = bitsOfByte b ++ bitsOfBytes x :=
  List.flatMap_cons

theorem bytesOfBits_bitsOfBytes (x : Bytes) : bytesOfBits (bitsOfBytes x) = x := by
  induction x with
  | nil => rfl
  | cons b x ih => rw [bitsOfBytes_cons, bytesOfBits_bitsOfByte_append, ih]

@[simp] theorem length_bitsOfBytes (x : Bytes) : (bitsOfBytes x).length = 8 * x.length := by
  induction x with
  | nil => rfl
  | cons b x ih => simp [bitsOfBytes_cons, bitsOfByte, ih]; omega

/-- A bit string of whole bytes is the bits of its bytes. -/
theorem bitsOfBytes_bytesOfBits {z : Bits} (hz : z.length % 8 = 0) : bitsOfBytes (bytesOfBits z) = z := by
  induction z using bytesOfBits.induct with
  | case1 b7 b6 b5 b4 b3 b2 b1 b0 rest ih =>
    rw [bytesOfBits, bitsOfBytes_cons, bitsOfByte_byteOfBits, ih (by simp only [List.length_cons] at hz; omega)]
    rfl
  | case2 z hshort =>
    have hbytes : bytesOfBits z = [] := bytesOfBits.eq_2 z hshort
    have hlen : z.length / 8 = 0 := by rw [← length_bytesOfBits, hbytes]; rfl
    rw [hbytes, List.length_eq_zero_iff.1 (by omega : z.length = 0)]
    rfl

/-- Bit `i` of a byte string, counted from 0 (R200). -/
theorem getD_bitsOfBytes (x : Bytes) (i : Nat) :
    (bitsOfBytes x).getD i false = (x.getD (i / 8) 0#8).getLsbD (7 - i % 8) := by
  induction x generalizing i with
  | nil => simp [bitsOfBytes]
  | cons b x ih =>
    rw [bitsOfBytes_cons]
    rcases Nat.lt_or_ge i 8 with hi | hi
    · rw [List.getD_append _ _ _ _ hi, Nat.div_eq_of_lt hi, Nat.mod_eq_of_lt hi, List.getD_cons_zero]
      interval_cases i <;> rfl
    · obtain ⟨j, rfl⟩ := Nat.exists_eq_add_of_le' hi
      rw [List.getD_append_right _ _ _ _ hi, Nat.add_div_right _ (by decide), List.getD_cons_succ, Nat.add_mod_right]
      exact ih j

/-! ### Permutations -/

/-- A permutation of a permutation looks its entries up in the inner table. -/
theorem permute_permute {t u : List Nat} (h : ∀ p ∈ t, p - 1 < u.length) (x : Bits) :
    permute t (permute u x) = permute (t.map fun p => u.getD (p - 1) 0) x := by
  simp only [permute, List.map_map]
  refine List.map_congr_left fun p hp => ?_
  simp [List.getElem?_eq_getElem (h p hp)]

/-- The table `1, 2, ..` changes nothing. -/
theorem permute_range (x : Bits) : permute (List.range' 1 x.length) x = x := by
  refine List.ext_getElem (by simp) fun i _ hi => ?_
  simp [permute, hi]

/-- `FP` undoes `IP` (R202). -/
theorem permute_desFP_desIP {x : Bits} (hx : x.length = 64) : permute desFP (permute desIP x) = x := by
  have htable : (desFP.map fun p => desIP.getD (p - 1) 0) = List.range' 1 64 := by decide
  rw [permute_permute (by decide), htable, ← hx, permute_range]

/-- `IP` undoes `FP` (R202). -/
theorem permute_desIP_desFP {x : Bits} (hx : x.length = 64) : permute desIP (permute desFP x) = x := by
  have htable : (desIP.map fun p => desFP.getD (p - 1) 0) = List.range' 1 64 := by decide
  rw [permute_permute (by decide), htable, ← hx, permute_range]

/-! ### The rounds -/

/-- The two halves of a block are 32 bits each (R209). -/
def DesHalves (lr : Bits × Bits) : Prop :=
  lr.1.length = 32 ∧ lr.2.length = 32

theorem length_desF (r k : Bits) : (desF r k).length = 32 :=
  length_permute desP _

theorem xorBits_xorBits_cancel {x y : Bits} (h : x.length = y.length) : xorBits (xorBits x y) y = x := by
  refine List.ext_getElem (by simp [xorBits, h]) fun i _ _ => ?_
  simp [xorBits]

theorem DesHalves.swap {lr : Bits × Bits} (h : DesHalves lr) : DesHalves lr.swap :=
  And.symm h

theorem DesHalves.round {lr : Bits × Bits} (h : DesHalves lr) (k : Bits) : DesHalves (desRound lr k) := by
  obtain ⟨hl, hr⟩ := h
  exact ⟨hr, by simp [desRound, xorBits, length_desF, hl]⟩

theorem DesHalves.rounds {lr : Bits × Bits} (h : DesHalves lr) (keys : List Bits) :
    DesHalves (keys.foldl desRound lr) := by
  induction keys generalizing lr with
  | nil => exact h
  | cons k keys ih => exact ih (h.round k)

/-- A round undoes the round of the same subkey, on exchanged halves: the Feistel construction, whatever `des_f` is. -/
theorem desRound_swap_desRound {lr : Bits × Bits} (h : DesHalves lr) (k : Bits) :
    desRound (desRound lr k).swap k = lr.swap :=
  Prod.ext rfl (xorBits_xorBits_cancel (h.1.trans (length_desF _ _).symm))

/-- The rounds in reverse order undo the rounds, on exchanged halves (R210). -/
theorem foldl_desRound_reverse {lr : Bits × Bits} (h : DesHalves lr) (keys : List Bits) :
    keys.reverse.foldl desRound (keys.foldl desRound lr).swap = lr.swap := by
  induction keys generalizing lr with
  | nil => rfl
  | cons k keys ih =>
    simp only [List.reverse_cons, List.foldl_append, List.foldl_cons, List.foldl_nil, ih (h.round k),
      desRound_swap_desRound h k]

/-! ### Decryption undoes encryption -/

/-- The halves with which the rounds begin (R209). -/
def desStart (block : Bytes) : Bits × Bits :=
  ((permute desIP (bitsOfBytes block)).take 32, (permute desIP (bitsOfBytes block)).drop 32)

/-- The block of the halves after the rounds, the last swap undone (R209). -/
def desEnd (lr : Bits × Bits) : Bytes :=
  bytesOfBits (permute desFP (lr.2 ++ lr.1))

theorem desCrypt_eq (keys : List Bits) (block : Bytes) :
    desCrypt keys block = desEnd (keys.foldl desRound (desStart block)) := rfl

theorem desHalves_desStart (block : Bytes) : DesHalves (desStart block) := by
  have hlen : (permute desIP (bitsOfBytes block)).length = 64 := length_permute desIP _
  constructor <;> simp [desStart, hlen]

theorem desStart_desEnd {lr : Bits × Bits} (h : DesHalves lr) : desStart (desEnd lr) = lr.swap := by
  obtain ⟨hl, hr⟩ := h
  have hbits : permute desIP (bitsOfBytes (desEnd lr)) = lr.2 ++ lr.1 := by
    rw [desEnd, bitsOfBytes_bytesOfBits (by rw [length_permute]; rfl), permute_desIP_desFP (by simp [hl, hr])]
  rw [desStart, hbits, List.take_left' hr, List.drop_left' hr]
  rfl

theorem desEnd_swap_desStart {block : Bytes} (h : block.length = 8) : desEnd (desStart block).swap = block := by
  rw [desEnd, desStart, Prod.snd_swap, Prod.fst_swap, List.take_append_drop, permute_desFP_desIP (by simp [h]),
    bytesOfBits_bitsOfBytes]

/-- Running the subkeys in reverse order undoes a run, whatever the subkeys are (R210). -/
theorem desCrypt_reverse_desCrypt (keys : List Bits) {block : Bytes} (h : block.length = 8) :
    desCrypt keys.reverse (desCrypt keys block) = block := by
  have hstart := desHalves_desStart block
  rw [desCrypt_eq keys.reverse, desCrypt_eq keys, desStart_desEnd (hstart.rounds keys),
    foldl_desRound_reverse hstart, desEnd_swap_desStart h]

theorem desDec_desEnc (key : Bytes) {block : Bytes} (h : block.length = 8) : desDec key (desEnc key block) = block :=
  desCrypt_reverse_desCrypt _ h

theorem desEnc_desDec (key : Bytes) {block : Bytes} (h : block.length = 8) : desEnc key (desDec key block) = block := by
  have hinv := desCrypt_reverse_desCrypt (desSubkeys key).reverse h
  rwa [List.reverse_reverse] at hinv

/-- `tdes_dec` undoes `tdes_enc` (R212), single DES by single DES from the last to the first. -/
theorem tdesDec_tdesEnc (key : Bytes) {block : Bytes} (h : block.length = 8) :
    tdesDec key (tdesEnc key block) = block := by
  rw [tdesDec, tdesEnc, desDec_desEnc _ (length_desDec ..), desEnc_desDec _ (length_desEnc ..), desDec_desEnc _ h]

/-! ### The parity bits -/

/-- Setting the parity bits changes no other bit of a key. -/
theorem getD_bitsOfBytes_parity (key : Bytes) {i : Nat} (hi : i % 8 ≠ 7) :
    (bitsOfBytes (key.map fun x => x ||| 1#8)).getD i false = (bitsOfBytes key).getD i false := by
  have hbit : 7 - i % 8 ≠ 0 := by omega
  rw [getD_bitsOfBytes, getD_bitsOfBytes, List.getD_eq_getElem?_getD, List.getD_eq_getElem?_getD, List.getElem?_map]
  cases key[i / 8]? with
  | none => rfl
  | some b => simp [hbit]

/-- `PC1` selects no parity bit (R206), so the subkeys do not depend on them (R207). -/
theorem desSubkeys_parity (key : Bytes) : desSubkeys (key.map fun x => x ||| 1#8) = desSubkeys key := by
  have hnone : ∀ p ∈ desPC1, (p - 1) % 8 ≠ 7 := by decide
  have hselect : permute desPC1 (bitsOfBytes (key.map fun x => x ||| 1#8)) = permute desPC1 (bitsOfBytes key) :=
    List.map_congr_left fun p hp => getD_bitsOfBytes_parity key (hnone p hp)
  rw [desSubkeys, desSubkeys, hselect]

theorem desSubkeys_congr_parity {k k' : Bytes} (h : (k.map fun x => x ||| 1#8) = k'.map fun x => x ||| 1#8) :
    desSubkeys k = desSubkeys k' := by
  rw [← desSubkeys_parity k, h, desSubkeys_parity]

/-! ### Three equal keys -/

/-- The thirds of a key repeated three times (R211). -/
theorem slices_append_self {k : Bytes} (h : k.length = 8) :
    slice (k ++ k ++ k) 0 8 = k ∧ slice (k ++ k ++ k) 8 8 = k ∧ slice (k ++ k ++ k) 16 8 = k := by
  have htake : k.take 8 = k := List.take_of_length_le h.le
  have hdrop : k.drop 16 = [] := List.drop_of_length_le (by omega)
  refine ⟨?_, ?_, ?_⟩ <;> simp [slice, h, List.drop_append, htake, hdrop]

theorem tdesEnc_append_self {k b : Bytes} (hk : k.length = 8) (hb : b.length = 8) :
    tdesEnc (k ++ k ++ k) b = desEnc k b := by
  obtain ⟨h1, h2, h3⟩ := slices_append_self hk
  rw [tdesEnc, h1, h2, h3, desDec_desEnc k hb]

theorem tdesDec_append_self {k b : Bytes} (hk : k.length = 8) (hb : b.length = 8) :
    tdesDec (k ++ k ++ k) b = desDec k b := by
  obtain ⟨h1, h2, h3⟩ := slices_append_self hk
  rw [tdesDec, h1, h2, h3, desEnc_desDec k hb]

/-- Settles O35, from the Feistel construction: a round undoes itself on exchanged halves. -/
theorem desInverse : Obligations.DesInverse := by
  refine ⟨fun k b _ hb => ⟨desDec_desEnc k hb, desEnc_desDec k hb⟩, fun k k' b _ _ hparity => ?_,
    fun k b _ hb => tdesDec_tdesEnc k hb, fun k b hk hb => ⟨tdesEnc_append_self hk hb, tdesDec_append_self hk hb⟩⟩
  simp only [desEnc, desDec, desSubkeys_congr_parity hparity, and_self]

end Sys2Proof.Machine

/-! The single-block commands (43_des.md R213 to R216): their words, their checks in order, and their effect. -/

namespace Sys2Proof.Machine

theorem encoded_of_formatDSK {op : BitVec 8} {mk : BitVec 2 → BitVec 2 → BitVec 3 → Instr}
    (h : ∀ rd ra rb imm, decodeFields ⟨op, rd, ra, rb, imm⟩ = formatDSK ⟨op, rd, ra, rb, imm⟩ mk) :
    Encoded op (fun x : BitVec 2 × BitVec 2 × BitVec 3 => (bufField x.1, bufField x.2.1, slotField x.2.2, 0#12))
      (fun _ => True) (fun x => mk x.1 x.2.1 x.2.2) := by
  refine encoded_of_decodeFields_iff fun rd ra rb imm i => ?_
  rw [h, formatDSK_eq_ok_iff]
  constructor
  · rintro ⟨d, a, k, rfl, rfl, rfl, rfl, rfl⟩
    exact ⟨(d, a, k), trivial, rfl, rfl⟩
  · rintro ⟨⟨d, a, k⟩, -, ⟨⟩, rfl⟩
    exact ⟨d, a, k, rfl, rfl, rfl, rfl, rfl⟩

/-- A command that puts one block through a cipher checks the key, then the input, then commits (R363). -/
theorem blockCommand_of_blockChecked {ins : BitVec 2 → BitVec 2 → BitVec 3 → Instr} (c : Cipher)
    {crypt : Bytes → Bytes → Bytes}
    (hexec : ∀ rd ra k s, exec (ins rd ra k) s = retireBuf rd s (blockChecked c crypt (slot s k) (buf s ra))) :
    BlockCommand ins (keyLen c) (blockLen c) crypt := by
  intro rd ra k s
  rw [hexec, blockChecked]
  by_cases hkey : (slot s k).key.length ≠ keyLen c
  · simp only [if_pos hkey]
    exact ⟨_, rfl, commandFault_takeFault (.keyLen false) s⟩
  · simp only [if_neg hkey]
    exact retireBuf_ite ((buf s ra).length ≠ blockLen c) (.len (buf s ra).length) s rd
      (crypt (slot s k).key (buf s ra))

/-- Settles O34. -/
theorem desCommands : Obligations.DesCommands :=
  ⟨encoded_of_formatDSK fun _ _ _ _ => rfl, encoded_of_formatDSK fun _ _ _ _ => rfl,
    blockCommand_of_blockChecked .des fun _ _ _ _ => rfl, blockCommand_of_blockChecked .des fun _ _ _ _ => rfl,
    encoded_of_formatDSK fun _ _ _ _ => rfl, encoded_of_formatDSK fun _ _ _ _ => rfl,
    blockCommand_of_blockChecked .tdes fun _ _ _ _ => rfl, blockCommand_of_blockChecked .tdes fun _ _ _ _ => rfl⟩

end Sys2Proof.Machine

/-! The field of AES (44_aes.md R241) and the tables (R242 to R244). A linear map is the product with its value at 1, so
the product is commutative and associative; every element is its own power 256, so the power 254 is the inverse. -/

namespace Sys2Proof.Machine

/-! ### Sums of bytes -/

theorem byte_xor_cancel (a b : Byte) : a ^^^ (a ^^^ b) = b := by
  rw [← BitVec.xor_assoc, BitVec.xor_self, BitVec.zero_xor]

theorem xtime_xor (a b : Byte) : xtime (a ^^^ b) = xtime a ^^^ xtime b := by
  have hcarry : (if (a ^^^ b).getLsbD 7 then 0x1B#8 else 0#8) =
      (if a.getLsbD 7 then 0x1B#8 else 0#8) ^^^ (if b.getLsbD 7 then 0x1B#8 else 0#8) := by
    rw [BitVec.getLsbD_xor]
    cases a.getLsbD 7 <;> cases b.getLsbD 7 <;> rfl
  rw [xtime, xtime, xtime, hcarry, BitVec.shiftLeft_xor_distrib]
  ac_rfl

theorem xtime_zero : xtime 0#8 = 0#8 := rfl

/-! ### The product of the field -/

theorem gfMul_xor_left (a a' b : Byte) : gfMul (a ^^^ a') b = gfMul a b ^^^ gfMul a' b := by
  unfold gfMul
  induction List.range 8 with
  | nil => simp
  | cons i l ih =>
    simp only [List.foldr_cons, ih, xtime_xor]
    cases b.getLsbD i
    · simp
    · simp only [if_true]
      ac_rfl

theorem gfMul_zero_left (b : Byte) : gfMul 0#8 b = 0#8 := by
  simpa using gfMul_xor_left 0#8 0#8 b

theorem gfMul_xtime_left (a b : Byte) : gfMul (xtime a) b = xtime (gfMul a b) := by
  unfold gfMul
  induction List.range 8 with
  | nil => simp [xtime_zero]
  | cons i l ih => simp only [List.foldr_cons, ih, xtime_xor, apply_ite xtime, xtime_zero]

theorem gfMul_one_left : ∀ b : Byte, gfMul 1#8 b = b := by decide +kernel

/-- A function that respects sums and doubling is the product with its value at 1: each byte is built from its bits by
doubling and adding. -/
theorem eq_gfMul_of_linear {f : Byte → Byte} (hadd : ∀ a b, f (a ^^^ b) = f a ^^^ f b)
    (hdouble : ∀ a, f (xtime a) = xtime (f a)) (b : Byte) : f b = gfMul (f 1#8) b := by
  have hzero : f 0#8 = 0#8 := by simpa using hadd 0#8 0#8
  conv_lhs => rw [← gfMul_one_left b]
  unfold gfMul
  induction List.range 8 with
  | nil => simpa using hzero
  | cons i l ih => simp only [List.foldr_cons, hadd, hdouble, ih, apply_ite f, hzero]

theorem gfMul_comm (a b : Byte) : gfMul a b = gfMul b a := by
  have hlinear := eq_gfMul_of_linear (f := (gfMul · b)) (gfMul_xor_left · · b) (gfMul_xtime_left · b) a
  rwa [gfMul_one_left] at hlinear

theorem gfMul_assoc (a b c : Byte) : gfMul (gfMul a b) c = gfMul a (gfMul b c) := by
  have hlinear := eq_gfMul_of_linear (f := fun a => gfMul (gfMul a b) c) (fun _ _ => by simp only [gfMul_xor_left])
    (fun _ => by simp only [gfMul_xtime_left]) a
  rwa [gfMul_one_left, gfMul_comm _ a] at hlinear

theorem gfMul_xor_right (a b b' : Byte) : gfMul a (b ^^^ b') = gfMul a b ^^^ gfMul a b' := by
  simp only [gfMul_comm a, gfMul_xor_left]

theorem gfMul_left_comm (a b c : Byte) : gfMul a (gfMul b c) = gfMul b (gfMul a c) := by
  rw [← gfMul_assoc, gfMul_comm a, gfMul_assoc]

theorem gfMul_two_left (a : Byte) : gfMul 2#8 a = xtime a := by
  conv_rhs => rw [← gfMul_one_left a, ← gfMul_xtime_left]
  rfl

/-! ### Powers -/

theorem gfPow_two_mul (a : Byte) (n : Nat) : gfPow a (2 * n) = gfMul (gfPow a n) (gfPow a n) := by
  have hadd (m : Nat) : gfPow a (m + n) = gfMul (gfPow a m) (gfPow a n) := by
    induction m with
    | zero => rw [Nat.zero_add, gfPow, gfMul_one_left]
    | succ m ih => rw [Nat.add_right_comm, gfPow, gfPow, ih, gfMul_assoc]
  rw [Nat.two_mul, hadd]

theorem gfPow_gfMul (a b : Byte) (n : Nat) : gfPow (gfMul a b) n = gfMul (gfPow a n) (gfPow b n) := by
  induction n with
  | zero => exact (gfMul_one_left _).symm
  | succ n ih => simp only [gfPow, ih, gfMul_assoc, gfMul_left_comm b]

theorem gfPow_one_left (n : Nat) : gfPow 1#8 n = 1#8 := by
  induction n with
  | zero => rfl
  | succ n ih => rw [gfPow, ih, gfMul_one_left]

/-- The powers `2 ^ n` respect sums: in a square the mixed products cancel. -/
theorem gfPow_two_pow_xor (a b : Byte) (n : Nat) :
    gfPow (a ^^^ b) (2 ^ n) = gfPow a (2 ^ n) ^^^ gfPow b (2 ^ n) := by
  induction n with
  | zero => simp only [Nat.pow_zero, gfPow, gfMul_xor_left]
  | succ n ih =>
    simp only [Nat.pow_succ', gfPow_two_mul, ih, gfMul_xor_left, gfMul_xor_right]
    rw [gfMul_comm (gfPow b _) (gfPow a _), BitVec.xor_assoc, byte_xor_cancel]

/-- In the field of 256 elements, the power 256 changes nothing. -/
theorem gfPow_256 (a : Byte) : gfPow a (2 ^ 8) = a := by
  have htwo : gfPow 2#8 (2 ^ 8) = 2#8 := by decide +kernel
  have hdouble (a : Byte) : gfPow (xtime a) (2 ^ 8) = xtime (gfPow a (2 ^ 8)) := by
    rw [← gfMul_two_left, gfPow_gfMul, htwo, gfMul_two_left]
  have hlinear := eq_gfMul_of_linear (f := (gfPow · (2 ^ 8))) (gfPow_two_pow_xor · · 8) hdouble a
  rwa [gfPow_one_left, gfMul_one_left] at hlinear

/-- The power 254 is the inverse (R242). -/
theorem gfPow_254_of_gfMul_eq_one {x y : Byte} (h : gfMul x y = 1#8) : gfPow x 254 = y := by
  have hcancel (z : Byte) : gfMul y (gfMul x z) = z := by rw [← gfMul_assoc, gfMul_comm y, h, gfMul_one_left]
  have hpow : gfPow x (2 ^ 8) = gfMul x (gfMul x (gfPow x 254)) := rfl
  calc gfPow x 254
    _ = gfMul y (gfMul y (gfPow x (2 ^ 8))) := by rw [hpow, hcancel, hcancel]
    _ = y := by rw [gfPow_256, gfMul_comm y x, h, gfMul_comm, gfMul_one_left]

/-! ### The tables -/

/-- The affine map of R242. -/
def aesAffine (i : Byte) : Byte :=
  i ^^^ i.rotateLeft 1 ^^^ i.rotateLeft 2 ^^^ i.rotateLeft 3 ^^^ i.rotateLeft 4 ^^^ 0x63#8

/-- The affine map undone. -/
def aesInvAffine (y : Byte) : Byte :=
  y.rotateLeft 1 ^^^ y.rotateLeft 3 ^^^ y.rotateLeft 6 ^^^ 0x05#8

/-- A relation of `x` and `SBOX[x]` is shown by one walk along the table. -/
theorem aesSBox_forall {P : Byte → Byte → Prop} (h : ∀ e ∈ aesSBoxTable.zipIdx, P (BitVec.ofNat 8 e.2) e.1)
    (x : Byte) : P x (aesSBox x) := by
  have hlen : aesSBoxTable.length = 256 := by decide +kernel
  have hx : x.toNat < aesSBoxTable.length := hlen ▸ x.isLt
  have hentry : aesSBox x = aesSBoxTable[x.toNat] := List.getD_eq_getElem _ _ hx
  have hP := h (aesSBoxTable[x.toNat], x.toNat) (List.mk_mem_zipIdx_iff_getElem?.2 (List.getElem?_eq_getElem hx))
  rwa [BitVec.ofNat_toNat, BitVec.setWidth_eq, ← hentry] at hP

theorem aesInvSBox_aesSBox (x : Byte) : aesInvSBox (aesSBox x) = x :=
  aesSBox_forall (P := fun x y => aesInvSBox y = x) (by decide +kernel) x

theorem aesAffine_aesInvAffine_aesSBox (x : Byte) : aesAffine (aesInvAffine (aesSBox x)) = aesSBox x :=
  aesSBox_forall (P := fun _ y => aesAffine (aesInvAffine y) = y) (by decide +kernel) x

theorem gfMul_aesInvAffine_aesSBox (x : Byte) :
    gfMul x (aesInvAffine (aesSBox x)) = if x = 0#8 then 0#8 else 1#8 :=
  aesSBox_forall (P := fun x y => gfMul x (aesInvAffine y) = if x = 0#8 then 0#8 else 1#8) (by decide +kernel) x

theorem gfPow_254 (x : Byte) : gfPow x 254 = aesInvAffine (aesSBox x) := by
  by_cases hx : x = 0#8
  · subst hx
    exact gfMul_zero_left _
  · exact gfPow_254_of_gfMul_eq_one ((gfMul_aesInvAffine_aesSBox x).trans (if_neg hx))

/-- Settles O37: `SBOX[x]` is the affine map of an inverse of `x`, and an inverse is the power 254. -/
theorem aesTables : Obligations.AesTables := by
  refine ⟨fun x => ?_, aesInvSBox_aesSBox, by decide⟩
  rw [gfPow_254]
  exact ⟨gfMul_aesInvAffine_aesSBox x, (aesAffine_aesInvAffine_aesSBox x).symm⟩

end Sys2Proof.Machine

/-! AES (44_aes.md R246 to R251): the layers of a round and their inverses, the T-table form of a round, and decryption
as the inverse of encryption. -/

namespace Sys2Proof.Machine

/-! ### SubBytes and ShiftRows -/

theorem aesSBox_aesInvSBox (x : Byte) : aesSBox (aesInvSBox x) = x :=
  have hsurj : Function.Surjective aesSBox :=
    Finite.surjective_of_injective (Function.LeftInverse.injective aesInvSBox_aesSBox)
  Function.LeftInverse.rightInverse_of_surjective aesInvSBox_aesSBox hsurj x

theorem getD_aesSubBytes {s : Bytes} {i : Nat} (hi : i < s.length) :
    (aesSubBytes s).getD i 0#8 = aesSBox (s.getD i 0#8) := by
  simp [aesSubBytes, hi]

theorem aesInvSubBytes_aesSubBytes (s : Bytes) : aesInvSubBytes (aesSubBytes s) = s := by
  simp [aesInvSubBytes, aesSubBytes, Function.comp_def, aesInvSBox_aesSBox]

theorem aesSubBytes_aesInvSubBytes (s : Bytes) : aesSubBytes (aesInvSubBytes s) = s := by
  simp [aesInvSubBytes, aesSubBytes, Function.comp_def, aesSBox_aesInvSBox]

/-- Selecting the bytes of a block by `p` and then by `q` changes nothing when `p` undoes `q`. -/
theorem map_getD_map_getD {p q : Nat → Nat} {n : Nat} (hpq : ∀ i < n, q i < n ∧ p (q i) = i) {s : Bytes}
    (hs : s.length = n) :
    ((List.range n).map fun i => ((List.range n).map fun j => s.getD (p j) 0#8).getD (q i) 0#8) = s := by
  refine List.ext_getElem (by simp [hs]) fun i _ hi => ?_
  obtain ⟨hq, hp⟩ := hpq i (hs ▸ hi)
  simp [hq, hp, hi]

theorem aesInvShiftRows_aesShiftRows {s : Bytes} (hs : s.length = 16) : aesInvShiftRows (aesShiftRows s) = s :=
  map_getD_map_getD (by decide) hs

theorem aesShiftRows_aesInvShiftRows {s : Bytes} (hs : s.length = 16) : aesShiftRows (aesInvShiftRows s) = s :=
  map_getD_map_getD (by decide) hs

/-! ### MixColumns -/

/-- One byte of a column times a matrix of R247, whose rows are the coefficients `p q r t` rotated. -/
def gfRow (p q r t a b c d : Byte) : Byte :=
  gfMul p a ^^^ gfMul q b ^^^ gfMul r c ^^^ gfMul t d

/-- The product of two such matrices is one more, by the product of their polynomials modulo `y^4 + 1`. -/
theorem gfRow_gfRow (p q r t p' q' r' t' a b c d : Byte) :
    gfRow p q r t (gfRow p' q' r' t' a b c d) (gfRow p' q' r' t' b c d a) (gfRow p' q' r' t' c d a b)
        (gfRow p' q' r' t' d a b c) =
      gfRow (gfRow p q r t p' t' r' q') (gfRow p q r t q' p' t' r') (gfRow p q r t r' q' p' t')
        (gfRow p q r t t' r' q' p') a b c d := by
  simp only [gfRow, gfMul_xor_left, gfMul_xor_right, gfMul_assoc]
  ac_rfl

theorem gfRow_unit (a b c d : Byte) : gfRow 1#8 0#8 0#8 0#8 a b c d = a := by
  simp only [gfRow, gfMul_one_left, gfMul_zero_left, BitVec.xor_zero]

/-- A byte of a column after `MixColumns` (R247). -/
def aesMix : Byte → Byte → Byte → Byte → Byte :=
  gfRow 2#8 3#8 1#8 1#8

/-- A byte of a column after `InvMixColumns` (R247). -/
def aesInvMix : Byte → Byte → Byte → Byte → Byte :=
  gfRow 14#8 11#8 13#8 9#8

theorem aesMix_eq (a b c d : Byte) : aesMix a b c d = xtime a ^^^ mul3 b ^^^ c ^^^ d := by
  have h3 : gfMul (mul3 1#8) b = mul3 b := by simp only [mul3, gfMul_xor_left, gfMul_xtime_left, gfMul_one_left]
  rw [aesMix, gfRow, gfMul_two_left, gfMul_one_left, gfMul_one_left, ← h3]
  rfl

theorem aesInvMix_eq (a b c d : Byte) : aesInvMix a b c d = mul14 a ^^^ mul11 b ^^^ mul13 c ^^^ mul9 d := by
  have hcoeff : 14#8 = mul14 1#8 ∧ 11#8 = mul11 1#8 ∧ 13#8 = mul13 1#8 ∧ 9#8 = mul9 1#8 := by decide
  obtain ⟨h14, h11, h13, h9⟩ := hcoeff
  rw [aesInvMix, h14, h11, h13, h9]
  simp only [gfRow, mul14, mul11, mul13, mul9, gfMul_xor_left, gfMul_xtime_left, gfMul_one_left]

theorem aesMixColumns_cons (a b c d : Byte) (s : Bytes) :
    aesMixColumns (a :: b :: c :: d :: s) =
      aesMix a b c d :: aesMix b c d a :: aesMix c d a b :: aesMix d a b c :: aesMixColumns s := by
  simp only [aesMixColumns, aesMix_eq, List.cons.injEq, and_true, true_and]
  refine ⟨?_, ?_, ?_⟩ <;> ac_rfl

theorem aesInvMixColumns_cons (a b c d : Byte) (s : Bytes) :
    aesInvMixColumns (a :: b :: c :: d :: s) =
      aesInvMix a b c d :: aesInvMix b c d a :: aesInvMix c d a b :: aesInvMix d a b c :: aesInvMixColumns s := by
  simp only [aesInvMixColumns, aesInvMix_eq, List.cons.injEq, and_true, true_and]
  refine ⟨?_, ?_, ?_⟩ <;> ac_rfl

theorem aesInvMix_aesMix (a b c d : Byte) :
    aesInvMix (aesMix a b c d) (aesMix b c d a) (aesMix c d a b) (aesMix d a b c) = a :=
  (gfRow_gfRow ..).trans (gfRow_unit a b c d)

theorem aesMix_aesInvMix (a b c d : Byte) :
    aesMix (aesInvMix a b c d) (aesInvMix b c d a) (aesInvMix c d a b) (aesInvMix d a b c) = a :=
  (gfRow_gfRow ..).trans (gfRow_unit a b c d)

/-- A property of every string of whole columns, shown column by column. -/
theorem column_induction {P : Bytes → Prop} {n : Nat} {s : Bytes} (hs : s.length = 4 * n) (nil : P [])
    (cons : ∀ a b c d s, P s → P (a :: b :: c :: d :: s)) : P s := by
  induction n generalizing s with
  | zero => rwa [List.length_eq_zero_iff.1 hs]
  | succ n ih =>
    match s, hs with
    | a :: b :: c :: d :: s, hs => exact cons a b c d s (ih (by simp only [List.length_cons] at hs; omega))

theorem length_aesMixColumns {s : Bytes} (hs : s.length = 16) : (aesMixColumns s).length = 16 := by
  rw [← hs]
  refine column_induction (P := fun s => (aesMixColumns s).length = s.length) (n := 4) hs rfl fun a b c d s ih => ?_
  rw [aesMixColumns_cons]
  simp only [List.length_cons, ih]

theorem length_aesInvMixColumns {s : Bytes} (hs : s.length = 16) : (aesInvMixColumns s).length = 16 := by
  rw [← hs]
  refine column_induction (P := fun s => (aesInvMixColumns s).length = s.length) (n := 4) hs rfl fun a b c d s ih => ?_
  rw [aesInvMixColumns_cons]
  simp only [List.length_cons, ih]

theorem aesInvMixColumns_aesMixColumns {s : Bytes} (hs : s.length = 16) : aesInvMixColumns (aesMixColumns s) = s := by
  refine column_induction (P := fun s => aesInvMixColumns (aesMixColumns s) = s) (n := 4) hs rfl fun a b c d s ih => ?_
  simp only [aesMixColumns_cons, aesInvMixColumns_cons, aesInvMix_aesMix, ih]

theorem aesMixColumns_aesInvMixColumns {s : Bytes} (hs : s.length = 16) : aesMixColumns (aesInvMixColumns s) = s := by
  refine column_induction (P := fun s => aesMixColumns (aesInvMixColumns s) = s) (n := 4) hs rfl fun a b c d s ih => ?_
  simp only [aesMixColumns_cons, aesInvMixColumns_cons, aesMix_aesInvMix, ih]

/-! ### The T-table form of a round -/

/-- `MixColumns` of a substituted column is the exclusive or of the entries of the four T-tables. -/
theorem aesMixColumns_aesSBox (a b c d : Byte) (t : Bytes) :
    aesMixColumns (aesSBox a :: aesSBox b :: aesSBox c :: aesSBox d :: t) =
      xorBytes (xorBytes (aesTTable 0 a) (aesTTable 1 b)) (xorBytes (aesTTable 2 c) (aesTTable 3 d)) ++
        aesMixColumns t := by
  simp only [aesMixColumns, aesTTable, xorBytes, List.drop_succ_cons, List.drop_zero, List.drop_nil,
    List.take_succ_cons, List.take_zero, List.cons_append, List.nil_append, List.zipWith_cons_cons,
    List.zipWith_nil_left, Nat.reduceSub, List.cons.injEq, and_true]
  refine ⟨?_, ?_, ?_, ?_⟩ <;> ac_rfl

/-- The columns of a full round, before the round key, one after the other. -/
theorem aesMixColumns_aesShiftRows_aesSubBytes {s : Bytes} (hs : s.length = 16) :
    aesMixColumns (aesShiftRows (aesSubBytes s)) =
      aesTColumn s 0 ++ aesTColumn s 1 ++ aesTColumn s 2 ++ aesTColumn s 3 := by
  have hshift : aesShiftRows (aesSubBytes s) =
      (List.range 16).map fun i => aesSBox (s.getD (i % 4 + 4 * ((i / 4 + i % 4) % 4)) 0#8) := by
    exact List.map_congr_left fun i _ => getD_aesSubBytes (by omega)
  rw [hshift, List.append_assoc, List.append_assoc]
  refine (aesMixColumns_aesSBox ..).trans (congrArg _ ?_)
  refine (aesMixColumns_aesSBox ..).trans (congrArg _ ?_)
  refine (aesMixColumns_aesSBox ..).trans (congrArg _ ?_)
  exact (aesMixColumns_aesSBox ..).trans (List.append_nil _)

/-- Settles O39, column by column. -/
theorem aesTTables : Obligations.AesTTables := by
  intro w r s hs
  rw [aesAddRoundKey, aesMixColumns_aesShiftRows_aesSubBytes hs]

/-! ### Decryption undoes encryption -/

theorem xorBytes_xorBytes_cancel {x y : Bytes} (h : x.length = y.length) : xorBytes (xorBytes x y) y = x := by
  refine List.ext_getElem (by simp [h]) fun i _ _ => ?_
  simp [xorBytes]

/-- The two layers of a round without keys and mixing, as in the last round (R250). -/
def aesSubShift (s : Bytes) : Bytes :=
  aesShiftRows (aesSubBytes s)

def aesInvSubShift (s : Bytes) : Bytes :=
  aesInvSubBytes (aesInvShiftRows s)

def aesRound (w : List Bytes) (s : Bytes) (r : Nat) : Bytes :=
  aesAddRoundKey w r (aesMixColumns (aesSubShift s))

def aesInvRound (w : List Bytes) (s : Bytes) (r : Nat) : Bytes :=
  aesInvMixColumns (aesAddRoundKey w r (aesInvSubShift s))

theorem aesEnc_eq (key block : Bytes) : aesEnc key block =
    aesAddRoundKey (aesExpand key) 10 (aesSubShift
      ((List.range' 1 9).foldl (aesRound (aesExpand key)) (aesAddRoundKey (aesExpand key) 0 block))) := rfl

theorem aesDec_eq (key block : Bytes) : aesDec key block =
    aesAddRoundKey (aesExpand key) 0 (aesInvSubShift
      ((List.range' 1 9).reverse.foldl (aesInvRound (aesExpand key)) (aesAddRoundKey (aesExpand key) 10 block))) := rfl

theorem length_aesSubShift (s : Bytes) : (aesSubShift s).length = 16 :=
  length_aesShiftRows _

theorem length_aesInvSubShift (s : Bytes) : (aesInvSubShift s).length = 16 := by
  simp [aesInvSubShift]

theorem aesInvSubShift_aesSubShift {s : Bytes} (hs : s.length = 16) : aesInvSubShift (aesSubShift s) = s := by
  rw [aesInvSubShift, aesSubShift, aesInvShiftRows_aesShiftRows (by simpa using hs), aesInvSubBytes_aesSubBytes]

theorem aesSubShift_aesInvSubShift {s : Bytes} (hs : s.length = 16) : aesSubShift (aesInvSubShift s) = s := by
  rw [aesInvSubShift, aesSubShift, aesSubBytes_aesInvSubBytes, aesShiftRows_aesInvShiftRows hs]

/-- Steps in reverse order undo the steps, when each undoes its own step up to `h`. -/
theorem foldl_reverse_foldl {f g : Bytes → Nat → Bytes} {h : Bytes → Bytes} {rs : List Nat}
    (hundo : ∀ r ∈ rs, ∀ s, g (h (f s r)) r = h s) (s : Bytes) :
    rs.reverse.foldl g (h (rs.foldl f s)) = h s := by
  induction rs generalizing s with
  | nil => rfl
  | cons r rs ih =>
    obtain ⟨hr, hrs⟩ := List.forall_mem_cons.1 hundo
    simp only [List.reverse_cons, List.foldl_append, List.foldl_cons, List.foldl_nil, ih hrs, hr]

section

variable {key : Bytes} (hkey : key.length = 16) {r : Nat} (hr : r ≤ 10)
include hkey hr

theorem aesAddRoundKey_cancel {s : Bytes} (hs : s.length = 16) :
    aesAddRoundKey (aesExpand key) r (aesAddRoundKey (aesExpand key) r s) = s :=
  xorBytes_xorBytes_cancel (hs.trans (length_aesRoundKey hkey hr).symm)

theorem length_aesRound (s : Bytes) : (aesRound (aesExpand key) s r).length = 16 :=
  length_aesAddRoundKey hkey hr (length_aesMixColumns (length_aesSubShift s))

theorem length_aesInvRound (s : Bytes) : (aesInvRound (aesExpand key) s r).length = 16 :=
  length_aesInvMixColumns (length_aesAddRoundKey hkey hr (length_aesInvSubShift s))

theorem aesInvRound_aesRound (s : Bytes) :
    aesInvRound (aesExpand key) (aesSubShift (aesRound (aesExpand key) s r)) r = aesSubShift s := by
  have hmix := length_aesMixColumns (length_aesSubShift s)
  rw [aesInvRound, aesInvSubShift_aesSubShift (length_aesRound hkey hr s), aesRound, aesAddRoundKey_cancel hkey hr hmix,
    aesInvMixColumns_aesMixColumns (length_aesSubShift s)]

theorem aesRound_aesInvRound (s : Bytes) :
    aesRound (aesExpand key) (aesInvSubShift (aesInvRound (aesExpand key) s r)) r = aesInvSubShift s := by
  have hkeyed := length_aesAddRoundKey hkey hr (length_aesInvSubShift s)
  rw [aesRound, aesSubShift_aesInvSubShift (length_aesInvRound hkey hr s), aesInvRound,
    aesMixColumns_aesInvMixColumns hkeyed, aesAddRoundKey_cancel hkey hr (length_aesInvSubShift s)]

end

/-- The full rounds are 1 to 9 (R250). -/
theorem le_ten_of_mem_rounds {r : Nat} (hr : r ∈ List.range' 1 9) : r ≤ 10 := by
  simp only [List.mem_range'_1] at hr
  omega

theorem aesDec_aesEnc {key block : Bytes} (hkey : key.length = 16) (hblock : block.length = 16) :
    aesDec key (aesEnc key block) = block := by
  have hrounds := foldl_reverse_foldl (rs := List.range' 1 9)
    (fun r hr => aesInvRound_aesRound hkey (le_ten_of_mem_rounds hr)) (aesAddRoundKey (aesExpand key) 0 block)
  rw [aesDec_eq, aesEnc_eq, aesAddRoundKey_cancel hkey (by decide) (length_aesSubShift _), hrounds,
    aesInvSubShift_aesSubShift (length_aesAddRoundKey hkey (by decide) hblock),
    aesAddRoundKey_cancel hkey (by decide) hblock]

theorem aesEnc_aesDec {key block : Bytes} (hkey : key.length = 16) (hblock : block.length = 16) :
    aesEnc key (aesDec key block) = block := by
  have hrounds := foldl_reverse_foldl (rs := (List.range' 1 9).reverse)
    (fun r hr => aesRound_aesInvRound hkey (le_ten_of_mem_rounds (List.mem_reverse.1 hr)))
    (aesAddRoundKey (aesExpand key) 10 block)
  rw [List.reverse_reverse] at hrounds
  rw [aesEnc_eq, aesDec_eq, aesAddRoundKey_cancel hkey (by decide) (length_aesInvSubShift _), hrounds,
    aesSubShift_aesInvSubShift (length_aesAddRoundKey hkey (by decide) hblock),
    aesAddRoundKey_cancel hkey (by decide) hblock]

/-- Settles O38: each round undoes the round of the same number, up to the layers without a key. -/
theorem aesInverse : Obligations.AesInverse :=
  fun _ _ hkey hblock => ⟨aesDec_aesEnc hkey hblock, aesEnc_aesDec hkey hblock⟩

end Sys2Proof.Machine

/-! `AESENC` and `AESDEC` (44_aes.md R252, R253). -/

namespace Sys2Proof.Machine

/-- Settles O36. -/
theorem aesCommands : Obligations.AesCommands :=
  ⟨encoded_of_formatDSK fun _ _ _ _ => rfl, encoded_of_formatDSK fun _ _ _ _ => rfl,
    blockCommand_of_blockChecked .aes fun _ _ _ _ => rfl, blockCommand_of_blockChecked .aes fun _ _ _ _ => rfl⟩

end Sys2Proof.Machine


/-! CBC (45_cbc.md R283 to R288): the padded length, unpadding as one prefix, and the chain of decryptions as the
inverse of the chain of encryptions. -/

namespace Sys2Proof.Machine

/-! ### Padding -/

/-- Padding fills up to the next multiple of the block size, by a whole block if there is nothing to fill (R283). -/
theorem add_padLen_eq_mul {n : Nat} (hn : 0 < n) (len : Nat) : len + padLen n len = n * (len / n + 1) := by
  have hlt := Nat.mod_lt len hn
  have hdiv := Nat.div_add_mod len n
  rw [padLen, Nat.mul_add_one]
  omega

/-- The padded length as R289 writes it. -/
theorem add_padLen_eq_sub {n : Nat} (hn : 0 < n) (len : Nat) : len + padLen n len = len + n - len % n :=
  (Nat.add_sub_assoc (Nat.mod_lt len hn).le len).symm

theorem padLen_pos {n : Nat} (hn : 0 < n) (len : Nat) : 0 < padLen n len :=
  Nat.sub_pos_of_lt (Nat.mod_lt len hn)

theorem padLen_le (n len : Nat) : padLen n len ≤ n := Nat.sub_le ..

theorem blockLen_lt (c : Cipher) : blockLen c < 256 := by cases c <;> decide

/-- The last byte of a padded string says how long the padding is. -/
theorem toNat_lastByte_pkcs7Pad (c : Cipher) (p : Bytes) :
    (lastByte (pkcs7Pad (blockLen c) p)).toNat = padLen (blockLen c) p.length := by
  have hpos := padLen_pos (blockLen_pos c) p.length
  have hlt : padLen (blockLen c) p.length < 2 ^ 8 := (padLen_le ..).trans_lt (blockLen_lt c)
  have hlast : lastByte (pkcs7Pad (blockLen c) p) = BitVec.ofNat 8 (padLen (blockLen c) p.length) := by
    rw [lastByte, pkcs7Pad, List.getLastD_eq_getLast?, List.getLast?_append_of_ne_nil _ (by simp [hpos.ne']),
      List.getLast?_replicate, if_neg hpos.ne', Option.getD_some]
  rw [hlast, BitVec.toNat_ofNat, Nat.mod_eq_of_lt hlt]

/-- Permissive unpadding drops as many bytes as the last one says, or all if there are not so many (R284). -/
theorem pkcs7Unpad_eq_take (q : Bytes) : pkcs7Unpad q = q.take (q.length - (lastByte q).toNat) := by
  rw [pkcs7Unpad]
  split
  · rfl
  · rw [Nat.sub_eq_zero_of_le (by omega), List.take_zero]

/-- Both modes of unpadding in one (R287): the hardened mode adds a check and drops the same bytes. -/
theorem cbcDec_eq (hardened : Bool) (c : Cipher) (k : KeySlot) (ct : Bytes) :
    let q := cbcDecRaw c k ct
    let p := (lastByte q).toNat
    cbcDec hardened c k ct =
      if hardened = true ∧
          (p < 1 ∨ p > blockLen c ∨ q.drop (q.length - p) ≠ List.replicate p (BitVec.ofNat 8 p)) then
        .error (.pad (lastByte q))
      else .ok (q.take (q.length - p)) := by
  cases hardened with
  | false => simp [cbcDec, pkcs7Unpad_eq_take]
  | true => simp [cbcDec, pkcs7UnpadChecked]

/-! ### The round trip -/

/-- A block decryption undoes a block encryption (R281). -/
theorem blockDec_blockEnc {c : Cipher} {key b : Bytes} (hkey : key.length = keyLen c) (hb : b.length = blockLen c) :
    blockDec c key (blockEnc c key b) = b := by
  cases c with
  | des => exact desDec_desEnc key hb
  | tdes => exact tdesDec_tdesEnc key hb
  | aes => exact aesDec_aesEnc hkey hb

/-- The chain of decryptions undoes the chain of encryptions: both run along the same ciphertext blocks (R286, R287). -/
theorem cbcDecBlocks_cbcEncBlocks {enc dec : Bytes → Bytes} {n : Nat} (hlen : ∀ x, (enc x).length = n)
    (hinv : ∀ b, b.length = n → dec (enc b) = b) {m : Nat} {prev q : Bytes} (hprev : prev.length = n)
    (hq : q.length = m * n) : cbcDecBlocks dec n m prev (cbcEncBlocks enc n m prev q) = q := by
  induction m generalizing prev q with
  | zero => exact (List.eq_nil_of_length_eq_zero (by simpa using hq)).symm
  | succ m ih =>
    rw [Nat.succ_mul] at hq
    have hblock : (q.take n).length = n := by simp; omega
    have hrest : (q.drop n).length = m * n := by simp; omega
    have hdec : dec (enc (xorBytes (q.take n) prev)) = xorBytes (q.take n) prev := hinv _ (by simp [hblock, hprev])
    simp only [cbcEncBlocks, cbcDecBlocks, List.take_left' (hlen _), List.drop_left' (hlen _)]
    rw [hdec, xorBytes_xorBytes_cancel (hblock.trans hprev.symm), ih (hlen _) hrest, List.take_append_drop]

/-- Decrypting a ciphertext gives the padded plaintext. -/
theorem cbcDecRaw_cbcEnc {c : Cipher} {k : KeySlot} (hkey : k.key.length = keyLen c) (hiv : k.iv.length = blockLen c)
    (p : Bytes) : cbcDecRaw c k (cbcEnc c k p) = pkcs7Pad (blockLen c) p := by
  have hblocks : (pkcs7Pad (blockLen c) p).length = (pkcs7Pad (blockLen c) p).length / blockLen c * blockLen c := by
    rw [length_pkcs7Pad]
    exact (Nat.div_mul_cancel (Nat.dvd_of_mod_eq_zero (padded_mod (blockLen_pos c) _))).symm
  rw [cbcDecRaw, length_cbcEnc hkey, ← length_pkcs7Pad, cbcEnc]
  exact cbcDecBlocks_cbcEncBlocks (length_blockEnc hkey) (fun _ => blockDec_blockEnc hkey) hiv hblocks

/-- Settles O42: the decrypted blocks are the padded plaintext, whose padding passes the hardened check. -/
theorem cbcRoundTrip : Obligations.CbcRoundTrip := by
  intro c k p hardened hkey hiv
  have hpos := padLen_pos (blockLen_pos c) p.length
  have hle := padLen_le (blockLen c) p.length
  refine ⟨?_, (length_cbcEnc hkey p).trans (add_padLen_eq_mul (blockLen_pos c) _)⟩
  rw [cbcDec_eq, cbcDecRaw_cbcEnc hkey hiv, toNat_lastByte_pkcs7Pad, length_pkcs7Pad, Nat.add_sub_cancel, pkcs7Pad,
    List.drop_left, List.take_left, if_neg (by simp; omega)]

end Sys2Proof.Machine

/-! `CBCENC` and `CBCDEC` (45_cbc.md R289, R290): their words, their checks in order, and their effect. -/

namespace Sys2Proof.Machine

theorem encoded_of_formatDSKM {op : BitVec 8} {mk : BitVec 2 → BitVec 2 → BitVec 3 → BitVec 2 → Instr}
    (h : ∀ rd ra rb imm, decodeFields ⟨op, rd, ra, rb, imm⟩ = formatDSKM ⟨op, rd, ra, rb, imm⟩ mk) :
    Encoded op
      (fun x : BitVec 2 × BitVec 2 × BitVec 3 × BitVec 2 =>
        (bufField x.1, bufField x.2.1, slotField x.2.2.1, selectorField x.2.2.2))
      (fun x => x.2.2.2 ≠ 3#2) (fun x => mk x.1 x.2.1 x.2.2.1 x.2.2.2) := by
  refine encoded_of_decodeFields_iff fun rd ra rb imm i => ?_
  rw [h, formatDSKM_eq_ok_iff]
  constructor
  · rintro ⟨d, a, k, m, rfl, rfl, rfl, rfl, hm, rfl⟩
    exact ⟨(d, a, k, m), hm, rfl, rfl⟩
  · rintro ⟨⟨d, a, k, m⟩, hm, ⟨⟩, rfl⟩
    exact ⟨d, a, k, m, rfl, rfl, rfl, rfl, hm, rfl⟩

/-! ### The checks in order -/

/-- The check of a slot comes before what follows it, the key before the IV (R282). -/
theorem slotChecked_bind {α : Type} (c : Cipher) (k : KeySlot) (r : Except Raise α) :
    (slotChecked c k >>= fun _ => r) =
      if k.key.length ≠ keyLen c then .error (.keyLen false)
      else if k.iv.length ≠ blockLen c then .error (.keyLen true)
      else r := by
  simp only [slotChecked, apply_ite (· >>= fun _ => r)]
  rfl

theorem cbcEncChecked_eq (cap : Nat) (c : Cipher) (k : KeySlot) (p : Bytes) :
    let m := p.length + blockLen c - p.length % blockLen c
    cbcEncChecked cap c k p =
      if k.key.length ≠ keyLen c then .error (.keyLen false)
      else if k.iv.length ≠ blockLen c then .error (.keyLen true)
      else if m > cap then .error (.overflow m)
      else .ok (cbcEnc c k p) := by
  rw [← add_padLen_eq_sub (blockLen_pos c)]
  exact slotChecked_bind c k _

theorem cbcDecChecked_eq (hardened : Bool) (c : Cipher) (k : KeySlot) (ct : Bytes) :
    cbcDecChecked hardened c k ct =
      if k.key.length ≠ keyLen c then .error (.keyLen false)
      else if k.iv.length ≠ blockLen c then .error (.keyLen true)
      else if ct.length = 0 ∨ ct.length % blockLen c ≠ 0 then .error (.len ct.length)
      else cbcDec hardened c k ct :=
  slotChecked_bind c k _

/-- A command whose next check is `p` ends in its fault, or as the rest of the command does. -/
theorem retireBuf_check (p : Prop) [Decidable p] (e : Raise) {rd : BitVec 2} {s : State} {r : Except Raise Bytes}
    {Q : State → Prop} (hrest : ¬ p → ∃ t, retireBuf rd s r = .next t ∧ Q t) :
    ∃ t, retireBuf rd s (if p then .error e else r) = .next t ∧
      if p then CommandFault (raiseCode e) (raiseInfo e) s t else Q t := by
  by_cases hp : p
  · simp only [if_pos hp]
    exact ⟨_, rfl, commandFault_takeFault e s⟩
  · simp only [if_neg hp]
    exact hrest hp

theorem eq_three_of_cipherSelector_eq_none {c : BitVec 2} (h : cipherSelector c = none) : c = 3#2 := by
  revert c
  decide

/-- The reserved selector is illegal (R93, R96). -/
theorem commandFault_of_cipherSelector_eq_none {c rd : BitVec 2} {s : State}
    {f : Cipher → Except Raise Bytes} (h : cipherSelector c = none) :
    ∃ t, retireBuf rd s (cipherChecked c >>= f) = .next t ∧ c = 3#2 ∧ CommandFault 0x01#8 0#24 s t := by
  rw [cipherChecked, h]
  exact ⟨_, rfl, eq_three_of_cipherSelector_eq_none h, commandFault_takeFault .illegal s⟩

/-- A command goes on with the cipher selected. -/
theorem retireBuf_cipherChecked_of_some {c rd : BitVec 2} {s : State} {f : Cipher → Except Raise Bytes}
    {x : Cipher} (h : cipherSelector c = some x) : retireBuf rd s (cipherChecked c >>= f) = retireBuf rd s (f x) := by
  rw [cipherChecked, h]
  rfl

theorem raiseInfo_pad (b : Byte) : raiseInfo (.pad b) = BitVec.ofNat 24 b.toNat :=
  zero_append_eq_ofNat 16 b

/-! ### The commands -/

/-- Settles O40. -/
theorem cbcenc : Obligations.Cbcenc := by
  refine ⟨encoded_of_formatDSKM fun _ _ _ _ => rfl, fun rd ra k c s => ?_⟩
  cases hc : cipherSelector c with
  | none => exact commandFault_of_cipherSelector_eq_none hc
  | some x =>
    have hexec : exec (.cbcenc rd ra k c) s = retireBuf rd s (cbcEncChecked s.cfg.cap x (slot s k) (buf s ra)) :=
      retireBuf_cipherChecked_of_some hc
    rw [hexec, cbcEncChecked_eq]
    refine retireBuf_check _ (.keyLen false) fun hkey => retireBuf_check _ (.keyLen true) fun _ =>
      retireBuf_check _ (.overflow _) fun _ => ?_
    obtain ⟨hbuf, hdone, honly⟩ := commits_setBuf s rd (cbcEnc x (slot s k) (buf s ra))
    refine ⟨_, rfl, hbuf, ?_, hdone, honly⟩
    rw [hbuf, length_cbcEnc (not_not.1 hkey), add_padLen_eq_sub (blockLen_pos x)]

/-- Settles O41. -/
theorem cbcdec : Obligations.Cbcdec := by
  refine ⟨encoded_of_formatDSKM fun _ _ _ _ => rfl, fun rd ra k c s => ?_⟩
  cases hc : cipherSelector c with
  | none => exact commandFault_of_cipherSelector_eq_none hc
  | some x =>
    have hexec : exec (.cbcdec rd ra k c) s = retireBuf rd s (cbcDecChecked s.ctrl.padChk x (slot s k) (buf s ra)) :=
      retireBuf_cipherChecked_of_some hc
    rw [hexec, cbcDecChecked_eq]
    refine retireBuf_check _ (.keyLen false) fun _ => retireBuf_check _ (.keyLen true) fun _ =>
      retireBuf_check _ (.len _) fun _ => ?_
    rw [cbcDec_eq, ← lastByte, ← raiseInfo_pad]
    exact retireBuf_ite _ (.pad _) s rd _

end Sys2Proof.Machine

/-! `KDFK` and `KDFIV` (46_kdf.md R301 to R303): their words, the check of the slice, and the slice of the digest text as
a key or an IV. -/

namespace Sys2Proof.Machine

theorem encoded_of_formatKD {op : BitVec 8} {mk : BitVec 3 → BitVec 2 → BitVec 6 → BitVec 6 → Instr}
    (h : ∀ rd ra rb imm, decodeFields ⟨op, rd, ra, rb, imm⟩ = formatKD ⟨op, rd, ra, rb, imm⟩ mk) :
    Encoded op
      (fun x : BitVec 3 × BitVec 2 × BitVec 6 × BitVec 6 =>
        (slotField x.1, bufField x.2.1, 0#4, x.2.2.1 ++ x.2.2.2))
      (fun _ => True) (fun x => mk x.1 x.2.1 x.2.2.1 x.2.2.2) := by
  refine encoded_of_decodeFields_iff fun rd ra rb imm i => ?_
  rw [h, formatKD_eq_ok_iff]
  constructor
  · rintro ⟨k, a, off, len, rfl, rfl, rfl, rfl, rfl⟩
    exact ⟨(k, a, off, len), trivial, rfl, rfl⟩
  · rintro ⟨⟨k, a, off, len⟩, -, ⟨⟩, rfl⟩
    exact ⟨k, a, off, len, rfl, rfl, rfl, rfl, rfl⟩

section

variable (off len : BitVec 6)

/-- `INFO` of `E_RANGE` is the command's `imm` (R302). -/
theorem raiseInfo_range : raiseInfo (.range off len) = BitVec.ofNat 24 (off.toNat * 64 + len.toNat) := by
  have htoNat : (0#12 ++ off ++ len).toNat = off.toNat * 64 + len.toNat := by
    simp only [toNat_append_eq_add, BitVec.toNat_ofNat]
    omega
  exact eq_ofNat_of_toNat_eq htoNat

/-- A slice within the 32 digits has the length asked for (R301). -/
theorem length_slice_hexText_md5Sum (upper : Bool) (secret : Bytes) (h : off.toNat + len.toNat ≤ 32) :
    (slice (hexText upper (md5Sum secret)) off.toNat len.toNat).length = len.toNat := by
  simp only [length_slice, length_hexText, length_md5Sum]
  omega

/-- A derivation into any destination of capacity `cap`: `place` puts the slice there, `read` finds it there again, and
`Frame` is what placing leaves unchanged. -/
theorem retire_kdf (secret : Bytes) (cap : Nat) (s : State) {place : Bytes → State} (read : State → Bytes)
    {Frame : State → Prop}
    (hplace : ∀ v, read (complete (place v)) = v ∧ Completed s (complete (place v)) ∧ Frame (complete (place v))) :
    ∃ t, retire s ((kdf s.ctrl secret off len cap).map place) = .next t ∧
      if off.toNat + len.toNat > 32 ∨ len.toNat > cap then
        CommandFault 0x06#8 (BitVec.ofNat 24 (off.toNat * 64 + len.toNat)) s t
      else read t = ((hexText s.ctrl.hexCase (md5Sum secret)).drop off.toNat).take len.toNat ∧
        (read t).length = len.toNat ∧ Completed s t ∧ Frame t := by
  rw [kdf]
  by_cases hrange : off.toNat + len.toNat > 32 ∨ len.toNat > cap
  · simp only [if_pos hrange]
    exact ⟨_, rfl, raiseInfo_range off len ▸ commandFault_takeFault (.range off len) s⟩
  · simp only [if_neg hrange]
    obtain ⟨hread, hdone, hframe⟩ := hplace (slice (hexText s.ctrl.hexCase (md5Sum secret)) off.toNat len.toNat)
    have hlen := length_slice_hexText_md5Sum off len s.ctrl.hexCase secret (by omega)
    exact ⟨_, rfl, hread, (congrArg List.length hread).trans hlen, hdone, hframe⟩

end

/-- Settles O43. -/
theorem kdfCommands : Obligations.KdfCommands :=
  ⟨encoded_of_formatKD fun _ _ _ _ => rfl, encoded_of_formatKD fun _ _ _ _ => rfl,
    fun kd ra off len s =>
      retire_kdf off len (buf s ra) keyCap s (fun t => (slot t kd).key) (commits_setKey s kd),
    fun kd ra off len s =>
      retire_kdf off len (buf s ra) ivCap s (fun t => (slot t kd).iv) (commits_setIv s kd)⟩

end Sys2Proof.Machine

/-! The sequencer's core steps (47_pipeline.md R321 to R331): Start, Post and Stage, each command's words, checks and
frame. -/

namespace Sys2Proof.Machine

/-! ### Start and Post -/

theorem encoded_of_formatDSMOptions {op : BitVec 8} {mk : BitVec 2 → BitVec 2 → Bool → Bool → Instr}
    (h : ∀ rd ra rb imm, decodeFields ⟨op, rd, ra, rb, imm⟩ = formatDSMOptions ⟨op, rd, ra, rb, imm⟩ mk) :
    Encoded op
      (fun x : BitVec 2 × BitVec 2 × Bool × Bool =>
        (bufField x.1, bufField x.2.1, 0#4, optionField x.2.2.1 x.2.2.2))
      (fun _ => True) (fun x => mk x.1 x.2.1 x.2.2.1 x.2.2.2) := by
  refine encoded_of_decodeFields_iff fun rd ra rb imm i => ?_
  rw [h, formatDSMOptions_eq_ok_iff]
  constructor
  · rintro ⟨d, a, u, r, rfl, rfl, rfl, rfl, rfl⟩
    exact ⟨(d, a, u, r), trivial, rfl, rfl⟩
  · rintro ⟨⟨d, a, u, r⟩, -, ⟨⟩, rfl⟩
    exact ⟨d, a, u, r, rfl, rfl, rfl, rfl, rfl⟩

/-- The Start step in numbers (R328, R329). -/
theorem startStep_eq (ra : BitVec 2) (spc : BitVec 5) (dir : Dir) (s : State) :
    startStep ra spc dir s =
      { s with work := buf s ra, spc := spc, sdir := dir, sst := if s.plen.toNat = 0 then .post else .run } := by
  have hempty : s.plen = 0#5 ↔ s.plen.toNat = 0 := BitVec.toNat_inj.symm
  simp only [startStep, hempty]

theorem exec_penc_of_post {s : State} (hs : s.sst = .post) (rd ra : BitVec 2) :
    exec (.penc rd ra) s = .next (complete (postCommit rd s.work s)) := by
  simp only [exec, execPenc, hs, retire_ok]

theorem exec_pdec_of_post {s : State} (hs : s.sst = .post) (rd ra : BitVec 2) (u r : Bool) :
    exec (.pdec rd ra u r) s =
      retire s ((pdecPost s.cfg.cap s.ctrl u r s.work).map fun w => postCommit rd w s) := by
  simp only [exec, execPdec, hs]

theorem exec_penc_of_run {s : State} (hs : s.sst = .run) (rd ra : BitVec 2) :
    exec (.penc rd ra) s = .fault .noCoreStep := by
  simp only [exec, execPenc, hs]

theorem exec_pdec_of_run {s : State} (hs : s.sst = .run) (rd ra : BitVec 2) (u r : Bool) :
    exec (.pdec rd ra u r) s = .fault .noCoreStep := by
  simp only [exec, execPdec, hs]

/-- What the commit of `v` by a Post step leaves (R330). -/
theorem commits_postCommit (rd : BitVec 2) (v : Bytes) (s : State) :
    let t := complete (postCommit rd v s)
    buf t rd = v ∧ t.sst = .idle ∧ Completed s t ∧ OnlyBuf rd s { t with sst := s.sst, work := s.work } :=
  ⟨buf_setBuf_self rd v _, rfl, completed_complete rfl, onlyBuf_complete_setBuf rd v s⟩

/-- The `R` option (R326): the length of the encoding is checked, whatever `B64PAD`. -/
theorem reencode_eq (cap : Nat) (pad r : Bool) (w : Bytes) :
    let m := 4 * ((w.length + 2) / 3)
    (if r then b64encChecked cap pad w else .ok w) =
      if r = true ∧ m > cap then .error (.overflow m) else .ok (if r then b64enc pad w else w) := by
  cases r with
  | false => rfl
  | true => simp only [true_and, if_true]; rfl

/-- `PDEC`'s Post step (R326): the `U` check, then the `R` encoding. -/
theorem pdecPost_eq (cap : Nat) (c : Ctrl) (u r : Bool) (w : Bytes) :
    let m := 4 * ((w.length + 2) / 3)
    pdecPost cap c u r w = (if u then utf8Bad w else none).elim
      (if r = true ∧ m > cap then .error (.overflow m) else .ok (if r then b64enc c.b64Pad w else w))
      fun i => .error (.malformed i) := by
  intro m
  rw [← reencode_eq]
  cases u with
  | false => rfl
  | true =>
    rw [pdecPost, if_pos rfl, if_pos rfl]
    cases h : utf8Bad w with
    | none => rw [utf8Checked_of_none h]; rfl
    | some i => rw [utf8Checked_of_some h]; rfl

/-- Settles O44. -/
theorem pencSteps : Obligations.PencSteps := by
  refine ⟨encoded_of_formatDS fun _ _ _ _ => rfl, fun rd ra s hs => ?_, fun rd ra s hs => ?_⟩
  · rw [exec_penc_of_idle hs, startStep_eq]
  · exact ⟨_, exec_penc_of_post hs rd ra, commits_postCommit rd s.work s⟩

/-- Settles O45. -/
theorem pdecSteps : Obligations.PdecSteps := by
  refine ⟨encoded_of_formatDSMOptions fun _ _ _ _ => rfl, fun rd ra u r s hs => ?_, fun rd ra u r s hs => ?_⟩
  · rw [exec_pdec_of_idle hs, startStep_eq]
  · intro m
    rw [exec_pdec_of_post hs, pdecPost_eq]
    cases (if u then utf8Bad s.work else none) with
    | some i => exact ⟨_, rfl, commandFault_takeFault (.malformed i) s⟩
    | none =>
      rw [Option.elim_none, apply_ite (Except.map _)]
      exact retire_ite (r = true ∧ m > s.cfg.cap) (.overflow m) s (commits_postCommit rd _ s)

theorem stageStep_of_not_ready {s : State} (h : stageReady s = false) (t : Byte) :
    stageStep t s = .fault .noCoreStep := by
  simp only [stageStep, h, Bool.false_eq_true, if_false]

/-- Settles O48. -/
theorem noCoreStep : Obligations.NoCoreStep :=
  ⟨fun _ h => ⟨stageStep_of_not_ready h _, stageStep_of_not_ready h _, stageStep_of_not_ready h _⟩,
    fun rd ra u r _ hs => ⟨exec_penc_of_run hs rd ra, exec_pdec_of_run hs rd ra u r⟩⟩

/-! ### The stage functions -/

theorem stageEnc_tag1 (cap : Nat) (c : Ctrl) (k : KeySlot) (x : Bytes) :
    stageEnc cap c 0x31#8 k x = cbcEncChecked cap .aes k x := rfl

theorem stageEnc_tag2 (cap : Nat) (c : Ctrl) (k : KeySlot) (x : Bytes) :
    stageEnc cap c 0x32#8 k x = cbcEncChecked cap .des k x := rfl

theorem stageEnc_tag3 (cap : Nat) (c : Ctrl) (k : KeySlot) (x : Bytes) :
    stageEnc cap c 0x33#8 k x = b64encChecked cap c.b64Pad x := rfl

theorem stageDec_tag1 (c : Ctrl) (k : KeySlot) (x : Bytes) :
    stageDec c 0x31#8 k x = cbcDecChecked c.padChk .aes k x := rfl

theorem stageDec_tag2 (c : Ctrl) (k : KeySlot) (x : Bytes) :
    stageDec c 0x32#8 k x = cbcDecChecked c.padChk .des k x := rfl

theorem stageDec_tag3 (c : Ctrl) (k : KeySlot) (x : Bytes) : stageDec c 0x33#8 k x = .ok (b64dec x) := rfl

/-- Only the three tags have a stage function (R321, R322). -/
theorem tag_of_stageEnc_ok {cap : Nat} {c : Ctrl} {t : Byte} {k : KeySlot} {x y : Bytes}
    (h : stageEnc cap c t k x = .ok y) : t = 0x31#8 ∨ t = 0x32#8 ∨ t = 0x33#8 := by
  by_contra hnone
  simp only [not_or] at hnone
  obtain ⟨h1, h2, h3⟩ := hnone
  rw [stageEnc, if_neg h1, if_neg h2, if_neg h3] at h
  cases h

/-- A checked decryption undoes a checked encryption, in either mode of unpadding (R288). -/
theorem cbcDecChecked_of_cbcEncChecked {cap : Nat} {c : Cipher} {k : KeySlot} {x y : Bytes}
    (h : cbcEncChecked cap c k x = .ok y) (hardened : Bool) : cbcDecChecked hardened c k y = .ok x := by
  obtain ⟨hkey, hiv, rfl, -⟩ := cbcEncChecked_ok h
  obtain ⟨hdec, hlen⟩ := cbcRoundTrip c k x hardened hkey hiv
  have hwhole : ¬ ((cbcEnc c k x).length = 0 ∨ (cbcEnc c k x).length % blockLen c ≠ 0) := by
    simp [hlen, (blockLen_pos c).ne']
  rw [cbcDecChecked_eq, if_neg (not_not.2 hkey), if_neg (not_not.2 hiv), if_neg hwhole, hdec]

/-- Settles O49, tag by tag. -/
theorem stageRoundTrip : Obligations.StageRoundTrip := by
  intro cap c c' t k x y h
  obtain rfl | rfl | rfl := tag_of_stageEnc_ok h
  · rw [stageEnc_tag1] at h
    rw [stageDec_tag1, cbcDecChecked_of_cbcEncChecked h]
  · rw [stageEnc_tag2] at h
    rw [stageDec_tag2, cbcDecChecked_of_cbcEncChecked h]
  · rw [stageEnc_tag3] at h
    obtain ⟨rfl, -⟩ := b64encChecked_ok h
    rw [stageDec_tag3, b64dec_b64enc]

/-! ### Stage steps -/

/-- What a Stage step at stage `i` leaves (R328, R329, R331): with its result `r` in `W` the stage pointer is `next`,
and the program ends where that is `last`. -/
def stageEnd (s : State) (i next last : BitVec 5) (r : Except Raise Bytes) : State :=
  match r with
  | .ok w => { s with work := w, spc := next, sst := if next = last then .post else .run }
  | .error e => takeFault e (some i) { s with spc := i }

theorem stageStepEnc_eq (t : Byte) (s : State) :
    stageStepEnc t s = stageEnd s s.spc (s.spc + 1#5) s.plen
      (stageEnc s.cfg.cap s.ctrl t (stageKey s s.spc) s.work) := by
  obtain ⟨_, hr, heq⟩ | ⟨_, hr, heq⟩ := stageStepEnc_cases t s <;> rw [heq, hr] <;> rfl

theorem stageStepDec_eq (t : Byte) (s : State) :
    stageStepDec t s = stageEnd s (s.spc - 1#5) (s.spc - 1#5) 0#5
      (stageDec s.ctrl t (stageKey s (s.spc - 1#5)) s.work) := by
  obtain ⟨_, hr, heq⟩ | ⟨_, hr, heq⟩ := stageStepDec_cases t s <;> rw [heq, hr] <;> rfl

theorem stageStep_enc {s : State} (hs : s.sst = .run) (hdir : s.sdir = .enc) (hspc : s.spc.toNat < s.plen.toNat)
    (t : Byte) : stageStep t s = .next (stageEnd s s.spc (s.spc + 1#5) s.plen
      (stageEnc s.cfg.cap s.ctrl t (stageKey s s.spc) s.work)) := by
  rw [stageStep_of_enc ((stageReady_iff s).2 ⟨hs, .inl ⟨hdir, hspc⟩⟩) hdir, stageStepEnc_eq]

theorem stageStep_dec {s : State} (hs : s.sst = .run) (hdir : s.sdir = .dec) (hspc : 0 < s.spc.toNat) (t : Byte) :
    stageStep t s = .next (stageEnd s (s.spc - 1#5) (s.spc - 1#5) 0#5
      (stageDec s.ctrl t (stageKey s (s.spc - 1#5)) s.work)) := by
  rw [stageStep_of_dec ((stageReady_iff s).2 ⟨hs, .inr ⟨hdir, hspc⟩⟩) hdir, stageStepDec_eq]

/-- An index of a stage as a number. -/
theorem stageIndex_eq (i : BitVec 5) : stageIndex i = BitVec.ofNat 4 i.toNat :=
  BitVec.eq_of_toNat_eq (by simp [stageIndex])

theorem stageKey_eq (s : State) (i : BitVec 5) : stageKey s i = slotOfStage s i.toNat := by
  rw [stageKey, stageIndex_eq, slotOfStage]

/-- A Stage step that does not fault changes `W`, `SPC` and `SST` only. -/
theorem stageDone_stageEnd (s : State) (i next last : BitVec 5) (w : Bytes) :
    StageDone w next (if next = last then .post else .run) s (stageEnd s i next last (.ok w)) :=
  ⟨rfl, rfl, rfl, rfl⟩

/-- A stage whose next check is `p` ends in its fault, or as the rest of the stage does. -/
theorem stageEnd_check (p : Prop) [Decidable p] (e : Raise) {s : State} {i next last : BitVec 5}
    {r : Except Raise Bytes} {Q : State → Prop} (hrest : ¬ p → ∃ t, stageEnd s i next last r = t ∧ Q t) :
    ∃ t, stageEnd s i next last (if p then .error e else r) = t ∧
      if p then StageFault (raiseCode e) (raiseInfo e) i s t else Q t := by
  by_cases hp : p
  · simp only [if_pos hp]
    exact ⟨_, rfl, stageFault_takeFault e i s⟩
  · simp only [if_neg hp]
    exact hrest hp

/-- A cipher's stage in encode direction. -/
theorem cipherStageEnc {ins : Instr} {t : Byte} {x : Cipher} (hexec : ∀ s, exec ins s = stageStep t s)
    (hstage : ∀ cap c k w, stageEnc cap c t k w = cbcEncChecked cap x k w) : CipherStageEnc ins x := by
  intro s hs hdir hspc _ ks m
  simp only [hexec, stageStep_enc hs hdir hspc, Host.Outcome.next.injEq]
  rw [hstage, stageKey_eq, cbcEncChecked_eq]
  exact stageEnd_check _ (.keyLen false) fun _ => stageEnd_check _ (.keyLen true) fun _ =>
    stageEnd_check _ (.overflow _) fun _ => ⟨_, rfl, stageDone_stageEnd ..⟩

/-- A cipher's stage in decode direction. -/
theorem cipherStageDec {ins : Instr} {t : Byte} {x : Cipher} (hexec : ∀ s, exec ins s = stageStep t s)
    (hstage : ∀ c k w, stageDec c t k w = cbcDecChecked c.padChk x k w) : CipherStageDec ins x := by
  intro s hs hdir hspc _ i ks q p
  simp only [hexec, stageStep_dec hs hdir hspc, Host.Outcome.next.injEq]
  rw [hstage, stageKey_eq, cbcDecChecked_eq, cbcDec_eq]
  refine stageEnd_check _ (.keyLen false) fun _ => stageEnd_check _ (.keyLen true) fun _ =>
    stageEnd_check _ (.len _) fun _ => ?_
  rw [← raiseInfo_pad]
  exact stageEnd_check _ (.pad _) fun _ => ⟨_, rfl, stageDone_stageEnd ..⟩

/-- Settles O46. -/
theorem tagsEncode : Obligations.TagsEncode := by
  refine ⟨cipherStageEnc (fun _ => rfl) stageEnc_tag1, cipherStageEnc (fun _ => rfl) stageEnc_tag2,
    fun s hs hdir hspc => ?_⟩
  intro m
  have hexec : exec .tag3 s = _ := stageStep_enc hs hdir hspc 0x33#8
  simp only [hexec, stageEnc_tag3, Host.Outcome.next.injEq]
  exact stageEnd_check (m > s.cfg.cap) (.overflow m) fun _ => ⟨_, rfl, stageDone_stageEnd ..⟩

/-- Settles O47. -/
theorem tagsDecode : Obligations.TagsDecode := by
  refine ⟨cipherStageDec (fun _ => rfl) stageDec_tag1, cipherStageDec (fun _ => rfl) stageDec_tag2,
    fun s hs hdir hspc => ?_⟩
  have hexec : exec .tag3 s = _ := stageStep_dec hs hdir hspc 0x33#8
  rw [stageDec_tag3] at hexec
  exact ⟨_, hexec, stageDone_stageEnd ..⟩

end Sys2Proof.Machine

/-! `PENC` and `PDEC` over their core steps (47_pipeline.md R325 to R332). Both directions are one development, by the
number of stages a running program still has to do. -/

namespace Sys2Proof.Machine

/-! ### The sequencer by the stages still to do -/

/-- The stage pointer with `n` stages to do (R328, R329). -/
def pointer (dir : Dir) (n : Nat) (s : State) : BitVec 5 :=
  match dir with
  | .enc => s.plen - BitVec.ofNat 5 n
  | .dec => BitVec.ofNat 5 n

/-- The stage whose step leaves `n` stages to do (10_state.md R31). -/
def stageLeaving (dir : Dir) (n : Nat) (s : State) : BitVec 5 :=
  match dir with
  | .enc => pointer .enc (n + 1) s
  | .dec => pointer .dec n s

/-- The operation of stage `i` of the program (R322, R323). -/
def stageOp (dir : Dir) (i : BitVec 5) (s : State) (w : Bytes) : Except Raise Bytes :=
  match dir with
  | .enc => stageEnc s.cfg.cap s.ctrl (stageTag s (stageIndex i)) (stageKey s i) w
  | .dec => stageDec s.ctrl (stageTag s (stageIndex i)) (stageKey s i) w

/-- The last `n` stages of a program: the working string they leave, or the first fault and its stage. -/
def lastStages (dir : Dir) (s : State) : Nat → Bytes → Except (Raise × BitVec 5) Bytes
  | 0, w => .ok w
  | n + 1, w =>
    match stageOp dir (stageLeaving dir n s) s w with
    | .ok w' => lastStages dir s n w'
    | .error e => .error (e, stageLeaving dir n s)

/-- A program issued in `s`, in execution with `n` stages to do on `w`. -/
def running (dir : Dir) (n : Nat) (w : Bytes) (s : State) : State :=
  { s with work := w, spc := pointer dir n s, sdir := dir, sst := if n = 0 then .post else .run }

/-- A program issued in `s`, ended by a fault at stage `i` (R331). -/
def faultedAt (dir : Dir) (e : Raise) (i : BitVec 5) (s : State) : State :=
  takeFault e (some i) { s with spc := i, sdir := dir }

theorem lastStages_of_ok {dir : Dir} {n : Nat} {s : State} {w w' : Bytes}
    (h : stageOp dir (stageLeaving dir n s) s w = .ok w') : lastStages dir s (n + 1) w = lastStages dir s n w' := by
  rw [lastStages, h]

theorem lastStages_of_error {dir : Dir} {n : Nat} {s : State} {w : Bytes} {e : Raise}
    (h : stageOp dir (stageLeaving dir n s) s w = .error e) :
    lastStages dir s (n + 1) w = .error (e, stageLeaving dir n s) := by
  rw [lastStages, h]

theorem stageIndex_ofNat (i : Nat) : stageIndex (BitVec.ofNat 5 i) = BitVec.ofNat 4 i :=
  BitVec.eq_of_toNat_eq (by simp [stageIndex])

section

variable {n i : Nat} {s : State} {w w' : Bytes} {e : Raise}

theorem encStages_of_ok (h : stageOp .enc (BitVec.ofNat 5 i) s w = .ok w') :
    encStages s (n + 1) i w = encStages s n (i + 1) w' := by
  rw [stageOp, stageKey, stageIndex_ofNat] at h
  rw [encStages, h]

theorem encStages_of_error (h : stageOp .enc (BitVec.ofNat 5 i) s w = .error e) :
    encStages s (n + 1) i w = .error (e, BitVec.ofNat 5 i) := by
  rw [stageOp, stageKey, stageIndex_ofNat] at h
  rw [encStages, h]

theorem decStages_of_ok (h : stageOp .dec (BitVec.ofNat 5 n) s w = .ok w') :
    decStages s (n + 1) w = decStages s n w' := by
  rw [stageOp, stageKey, stageIndex_ofNat] at h
  rw [decStages, h]

theorem decStages_of_error (h : stageOp .dec (BitVec.ofNat 5 n) s w = .error e) :
    decStages s (n + 1) w = .error (e, BitVec.ofNat 5 n) := by
  rw [stageOp, stageKey, stageIndex_ofNat] at h
  rw [decStages, h]

end

/-- Encoding does the stages from `i` on (R325). -/
theorem encStages_eq_lastStages (s : State) {n i : Nat} (w : Bytes) (h : i + n = s.plen.toNat) :
    encStages s n i w = lastStages .enc s n w := by
  induction n generalizing i w with
  | zero => rfl
  | succ n ih =>
    have hstage : stageLeaving .enc n s = BitVec.ofNat 5 i := by
      simp only [stageLeaving, pointer]
      bv_omega
    cases hop : stageOp .enc (BitVec.ofNat 5 i) s w with
    | ok w' => rw [encStages_of_ok hop, lastStages_of_ok (hstage ▸ hop), ih w' (by omega)]
    | error e => rw [encStages_of_error hop, lastStages_of_error (hstage ▸ hop), hstage]

/-- Decoding does the stages below `n` (R326). -/
theorem decStages_eq_lastStages (s : State) (n : Nat) (w : Bytes) : decStages s n w = lastStages .dec s n w := by
  induction n generalizing w with
  | zero => rfl
  | succ n ih =>
    have hstage : stageLeaving .dec n s = BitVec.ofNat 5 n := rfl
    cases hop : stageOp .dec (BitVec.ofNat 5 n) s w with
    | ok w' => rw [decStages_of_ok hop, lastStages_of_ok (hstage ▸ hop), ih w']
    | error e => rw [decStages_of_error hop, lastStages_of_error (hstage ▸ hop), hstage]

/-! ### Pointers -/

theorem pointer_enc_zero (s : State) : pointer .enc 0 s = s.plen := by
  simp [pointer]

/-- A whole program starts at the first stage (R328). -/
theorem pointer_enc_plen (s : State) : pointer .enc s.plen.toNat s = 0#5 := by
  simp [pointer]

/-- A whole program is undone from its end (R329). -/
theorem pointer_dec_plen (s : State) : pointer .dec s.plen.toNat s = s.plen := by
  simp [pointer]

theorem pointer_enc_succ (n : Nat) (s : State) : pointer .enc (n + 1) s + 1#5 = pointer .enc n s := by
  simp only [pointer]
  bv_omega

theorem pointer_dec_succ (n : Nat) (s : State) : pointer .dec (n + 1) s - 1#5 = pointer .dec n s := by
  simp only [pointer]
  bv_omega

theorem pointer_enc_succ_lt {n : Nat} {s : State} (h : n < s.plen.toNat) :
    (pointer .enc (n + 1) s).toNat < s.plen.toNat := by
  simp only [pointer]
  bv_omega

theorem pointer_dec_succ_pos {n : Nat} {s : State} (h : n < s.plen.toNat) : 0 < (pointer .dec (n + 1) s).toNat := by
  simp only [pointer]
  bv_omega

/-- The pointer reaches the end of the program with its last stage. -/
theorem pointer_eq_pointer_zero_iff (dir : Dir) {n : Nat} {s : State} (h : n < s.plen.toNat) :
    pointer dir n s = pointer dir 0 s ↔ n = 0 := by
  cases dir <;> simp only [pointer] <;> bv_omega

theorem startStep_enc (ra : BitVec 2) (s : State) :
    startStep ra 0#5 .enc s = running .enc s.plen.toNat (buf s ra) s := by
  rw [startStep_eq, running, pointer_enc_plen]

theorem startStep_dec (ra : BitVec 2) (s : State) :
    startStep ra s.plen .dec s = running .dec s.plen.toNat (buf s ra) s := by
  rw [startStep_eq, running, pointer_dec_plen]

/-! ### The core steps of a program -/

@[simp] theorem running_status (dir : Dir) (n : Nat) (w : Bytes) (s : State) :
    (running dir n w s).status = s.status := rfl

@[simp] theorem running_events (dir : Dir) (n : Nat) (w : Bytes) (s : State) :
    (running dir n w s).events = s.events := rfl

@[simp] theorem running_cw (dir : Dir) (n : Nat) (w : Bytes) (s : State) : (running dir n w s).cw = s.cw := rfl

@[simp] theorem running_sst_zero (dir : Dir) (w : Bytes) (s : State) : (running dir 0 w s).sst = .post := rfl

@[simp] theorem running_sst_succ (dir : Dir) (n : Nat) (w : Bytes) (s : State) :
    (running dir (n + 1) w s).sst = .run := rfl

/-- A Stage step of a program does the first of the stages to do (R328, R329). -/
theorem coreStep_running {dir : Dir} {n : Nat} {w : Bytes} {s : State} (hbusy : s.status.busy = true)
    (h : n < s.plen.toNat) :
    coreStep (running dir (n + 1) w s) = .next (stageEnd (running dir (n + 1) w s) (stageLeaving dir n s)
      (pointer dir n s) (pointer dir 0 s) (stageOp dir (stageLeaving dir n s) s w)) := by
  have hrun := running_sst_succ dir n w s
  rw [coreStep_of_run (by simpa using hbusy) hrun]
  cases dir with
  | enc =>
    rw [stageStep_enc hrun rfl (pointer_enc_succ_lt h), ← pointer_enc_succ, pointer_enc_zero]
    rfl
  | dec =>
    rw [stageStep_dec hrun rfl (pointer_dec_succ_pos h), stageLeaving, ← pointer_dec_succ]
    rfl

theorem coreStep_running_of_ok {dir : Dir} {n : Nat} {w w' : Bytes} {s : State} (hbusy : s.status.busy = true)
    (h : n < s.plen.toNat) (hop : stageOp dir (stageLeaving dir n s) s w = .ok w') :
    coreStep (running dir (n + 1) w s) = .next (running dir n w' s) := by
  rw [coreStep_running hbusy h, hop]
  simp only [stageEnd, running, pointer_eq_pointer_zero_iff dir h]

theorem coreStep_running_of_error {dir : Dir} {n : Nat} {w : Bytes} {s : State} {e : Raise}
    (hbusy : s.status.busy = true) (h : n < s.plen.toNat) (hop : stageOp dir (stageLeaving dir n s) s w = .error e) :
    coreStep (running dir (n + 1) w s) = .next (faultedAt dir e (stageLeaving dir n s) s) := by
  rw [coreStep_running hbusy h, hop]
  rfl

/-! ### Runs -/

/-- A run with no host event to come starts with a core step. -/
theorem runSteps_of_coreStep {s t : State} (hev : s.events = []) (h : coreStep s = .next t) (n : Nat) :
    runSteps (n + 1) s = runSteps n t := by
  rw [runSteps_succ, step_of_coreTurn (.inl ⟨hev, rfl⟩), h, andThen]

theorem runSteps_running {dir : Dir} {n : Nat} {w : Bytes} {s t : State} (hev : s.events = [])
    (h : coreStep (running dir n w s) = .next t) (m : Nat) :
    runSteps (m + 1) (running dir n w s) = runSteps m t :=
  runSteps_of_coreStep ((running_events dir n w s).trans hev) h m

/-- Nothing happens any more once the command has ended. -/
theorem runSteps_of_not_busy {s : State} (hev : s.events = []) (hb : s.status.busy = false) (n : Nat) :
    runSteps n s = .next s := by
  induction n with
  | zero => rfl
  | succ n ih => rw [runSteps_of_coreStep hev (coreStep_of_not_busy hb), ih]

section

variable {dir : Dir} {s : State} (hev : s.events = []) (hbusy : s.status.busy = true) {n : Nat} {w : Bytes}
include hev hbusy

/-- The stages to do, if none faults, and then `m` more steps. -/
theorem runSteps_running_of_ok (m : Nat) {w' : Bytes} (hn : n ≤ s.plen.toNat) (h : lastStages dir s n w = .ok w') :
    runSteps (n + m) (running dir n w s) = runSteps m (running dir 0 w' s) := by
  induction n generalizing w with
  | zero =>
    cases h
    rw [Nat.zero_add]
  | succ n ih =>
    cases hop : stageOp dir (stageLeaving dir n s) s w with
    | error e => rw [lastStages_of_error hop] at h; cases h
    | ok v =>
      rw [lastStages_of_ok hop] at h
      rw [Nat.add_right_comm, runSteps_running hev (coreStep_running_of_ok hbusy hn hop), ih (by omega) h]

/-- The stages to do, if one faults, end the program there (R331). -/
theorem runSteps_running_of_error (m : Nat) {e : Raise} {i : BitVec 5} (hn : n ≤ s.plen.toNat)
    (h : lastStages dir s n w = .error (e, i)) :
    runSteps (n + m) (running dir n w s) = .next (faultedAt dir e i s) := by
  induction n generalizing w with
  | zero => cases h
  | succ n ih =>
    rw [Nat.add_right_comm]
    cases hop : stageOp dir (stageLeaving dir n s) s w with
    | error e' =>
      rw [lastStages_of_error hop] at h
      cases h
      rw [runSteps_running hev (coreStep_running_of_error hbusy hn hop)]
      exact runSteps_of_not_busy (s := faultedAt dir e _ s) hev rfl _
    | ok v =>
      rw [lastStages_of_ok hop] at h
      rw [runSteps_running hev (coreStep_running_of_ok hbusy hn hop), ih (by omega) h]

/-- While the stages are done, and none faults, the program stays in execution. -/
theorem exists_running_of_ok {m : Nat} {w' : Bytes} (hn : n ≤ s.plen.toNat) (h : lastStages dir s n w = .ok w')
    (hm : m ≤ n) : ∃ k v, runSteps m (running dir n w s) = .next (running dir k v s) := by
  induction n generalizing w m with
  | zero =>
    obtain rfl := Nat.le_zero.1 hm
    exact ⟨0, w, rfl⟩
  | succ n ih =>
    cases m with
    | zero => exact ⟨n + 1, w, rfl⟩
    | succ m =>
      cases hop : stageOp dir (stageLeaving dir n s) s w with
      | error e => rw [lastStages_of_error hop] at h; cases h
      | ok v =>
        rw [lastStages_of_ok hop] at h
        rw [runSteps_running hev (coreStep_running_of_ok hbusy hn hop)]
        exact ih (by omega) h (by omega)

end

/-! ### A command from issue to end -/

/-- The state a command ends in: `post` of the string its stages leave, or the fault of a stage. -/
def ended (dir : Dir) (s : State) (post : Bytes → State) (r : Except (Raise × BitVec 5) Bytes) : State :=
  match r with
  | .ok w => post w
  | .error (e, i) => faultedAt dir e i s

/-- The command is in execution and no buffer has changed (R327, R330). -/
def InExecution (s t : State) : Prop :=
  t.status.busy = true ∧ ∀ b, buf t b = buf s b

section

variable {dir : Dir} {s : State} {i : Instr} {w : Bytes} (hs : Issued s) (hcw : decode s.cw = .ok i)
  (hstart : exec i s = .next (running dir s.plen.toNat w s))
include hs hcw hstart

theorem runSteps_start (n : Nat) : runSteps (n + 1) s = runSteps n (running dir s.plen.toNat w s) := by
  refine runSteps_of_coreStep hs.events ?_ n
  rw [coreStep_of_command hs.busy (by simp [hs.sst]) hcw, hstart]

/-- A command of the sequencer takes a Start step, its stages and a Post step (R327). -/
theorem runSteps_command {post : Bytes → State} (hpost : ∀ v, exec i (running dir 0 v s) = .next (post v)) :
    runSteps (s.plen.toNat + 2) s = .next (ended dir s post (lastStages dir s s.plen.toNat w)) := by
  rw [runSteps_start hs hcw hstart]
  cases h : lastStages dir s s.plen.toNat w with
  | error ei => exact runSteps_running_of_error hs.events hs.busy 1 le_rfl h
  | ok v =>
    have hlast : coreStep (running dir 0 v s) = .next (post v) := by
      rw [coreStep_of_command (by simpa using hs.busy) (by simp) (by simpa using hcw), hpost]
    rw [runSteps_running_of_ok hs.events hs.busy 1 le_rfl h, runSteps_running hs.events hlast]
    rfl

/-- Before its last step a command without a stage fault is in execution. -/
theorem inExecution_of_ok {v : Bytes} (h : lastStages dir s s.plen.toNat w = .ok v) {n : Nat}
    (hn : n < s.plen.toNat + 2) : ∃ t, runSteps n s = .next t ∧ InExecution s t := by
  cases n with
  | zero => exact ⟨s, rfl, hs.busy, fun _ => rfl⟩
  | succ n =>
    rw [runSteps_start hs hcw hstart]
    obtain ⟨k, v', hrun⟩ := exists_running_of_ok hs.events hs.busy le_rfl h (m := n) (by omega)
    exact ⟨_, hrun, hs.busy, fun _ => rfl⟩

end

/-! ### `PENC` and `PDEC` -/

/-- The end of `PENC` without a fault (R325). -/
def pencDone (rd : BitVec 2) (s : State) (w : Bytes) : State :=
  complete (setBuf rd w { s with sst := .idle, spc := s.plen, sdir := .enc, work := [] })

/-- The end of `PDEC` whose stages do not fault (R326). -/
def pdecDone (rd : BitVec 2) (u r : Bool) (s : State) (w : Bytes) : State :=
  match pdecPost s.cfg.cap s.ctrl u r w with
  | .ok v => complete (setBuf rd v { s with sst := .idle, spc := 0#5, sdir := .dec, work := [] })
  | .error e => takeFault e none { s with spc := 0#5, sdir := .dec }

theorem pencResult_eq (rd ra : BitVec 2) (s : State) :
    pencResult rd ra s = ended .enc s (pencDone rd s) (encStages s s.plen.toNat 0 (buf s ra)) := by
  unfold pencResult
  cases encStages s s.plen.toNat 0 (buf s ra) <;> rfl

theorem pdecResult_eq (rd ra : BitVec 2) (u r : Bool) (s : State) :
    pdecResult rd ra u r s = ended .dec s (pdecDone rd u r s) (decStages s s.plen.toNat (buf s ra)) := by
  unfold pdecResult
  cases decStages s s.plen.toNat (buf s ra) with
  | error ei => rfl
  | ok w =>
    unfold pdecDone
    cases hp : pdecPost s.cfg.cap s.ctrl u r w <;> simp only [ended, hp]

theorem exec_penc_running (rd ra : BitVec 2) (s : State) (w : Bytes) :
    exec (.penc rd ra) (running .enc 0 w s) = .next (pencDone rd s w) := by
  rw [exec_penc_of_post (running_sst_zero ..)]
  simp only [postCommit, pencDone, running, pointer_enc_zero]

theorem exec_pdec_running (rd ra : BitVec 2) (u r : Bool) (s : State) (w : Bytes) :
    exec (.pdec rd ra u r) (running .dec 0 w s) = .next (pdecDone rd u r s w) := by
  have hpost : pdecPost (running .dec 0 w s).cfg.cap (running .dec 0 w s).ctrl u r (running .dec 0 w s).work =
      pdecPost s.cfg.cap s.ctrl u r w := rfl
  rw [exec_pdec_of_post (running_sst_zero ..), hpost, pdecDone]
  cases pdecPost s.cfg.cap s.ctrl u r w <;> rfl

section

variable {s : State} {rd ra : BitVec 2} (hs : Issued s)
include hs

theorem exec_penc_issued : exec (.penc rd ra) s = .next (running .enc s.plen.toNat (buf s ra) s) := by
  rw [exec_penc_of_idle hs.sst, startStep_enc]

theorem exec_pdec_issued (u r : Bool) :
    exec (.pdec rd ra u r) s = .next (running .dec s.plen.toNat (buf s ra) s) := by
  rw [exec_pdec_of_idle hs.sst, startStep_dec]

theorem runSteps_penc (hcw : decode s.cw = .ok (.penc rd ra)) :
    runSteps (s.plen.toNat + 2) s = .next (pencResult rd ra s) := by
  rw [pencResult_eq, encStages_eq_lastStages s _ (Nat.zero_add _)]
  exact runSteps_command hs hcw (exec_penc_issued hs) (exec_penc_running rd ra s)

theorem runSteps_pdec {u r : Bool} (hcw : decode s.cw = .ok (.pdec rd ra u r)) :
    runSteps (s.plen.toNat + 2) s = .next (pdecResult rd ra u r s) := by
  rw [pdecResult_eq, decStages_eq_lastStages]
  exact runSteps_command hs hcw (exec_pdec_issued hs u r) (exec_pdec_running rd ra u r s)

end

/-- Settles O50. -/
theorem pipelineRefines : Obligations.PipelineRefines := by
  refine ⟨fun s rd ra _ hs hcw => ⟨runSteps_penc hs hcw, fun w hw n hn => ?_⟩,
    fun s rd ra u r _ hs hcw => ⟨runSteps_pdec hs hcw, fun w hw n hn => ?_⟩⟩
  · rw [encStages_eq_lastStages s _ (Nat.zero_add _)] at hw
    exact inExecution_of_ok hs hcw (exec_penc_issued hs) hw hn
  · rw [decStages_eq_lastStages] at hw
    exact inExecution_of_ok hs hcw (exec_pdec_issued hs u r) hw hn

/-! ### The round trip -/

/-- The stages from `i` on, undone from the last one to stage `i` under the same program, in whatever mode (R323,
R332). -/
theorem decStages_of_encStages {s t : State} (htag : ∀ i, stageTag t i = stageTag s i)
    (hkey : ∀ i, slot t (stageSlot t i) = slot s (stageSlot s i)) {n i : Nat} {x y : Bytes}
    (h : encStages s n i x = .ok y) : decStages t (i + n) y = decStages t i x := by
  induction n generalizing i x with
  | zero => cases h; rfl
  | succ n ih =>
    rw [encStages] at h
    split at h
    next hop =>
      have hback := stageRoundTrip _ _ t.ctrl _ _ _ _ hop
      rw [← htag, ← hkey] at hback
      rw [← Nat.add_assoc, Nat.add_right_comm, ih h, decStages, hback]
    next => cases h

/-- `PENC` without a fault has done every stage. -/
theorem pencResult_of_not_fault {rd ra : BitVec 2} {s : State} (h : (pencResult rd ra s).status.fault = false) :
    ∃ w, encStages s s.plen.toNat 0 (buf s ra) = .ok w ∧ pencResult rd ra s = pencDone rd s w := by
  rw [pencResult_eq] at h ⊢
  cases hw : encStages s s.plen.toNat 0 (buf s ra) with
  | error ei => rw [hw] at h; cases h
  | ok w => exact ⟨w, rfl, rfl⟩

/-- With or without `U`, well-formed text passes `PDEC`'s Post step unchanged (R326). -/
theorem pdecPost_of_wellFormed (cap : Nat) (c : Ctrl) {u : Bool} {w : Bytes} (h : u = true → utf8Bad w = none) :
    pdecPost cap c u false w = .ok w := by
  have hbad : (if u then utf8Bad w else none) = none := by
    split
    · exact h ‹_›
    · rfl
  rw [pdecPost_eq, hbad]
  rfl

/-- Settles O51: the program that `PENC` ran, `PDEC` undoes stage by stage. -/
theorem endToEnd : Obligations.EndToEnd := by
  intro s t rd ra re u w _ hs hcw hrun hfault hw hutf8
  rw [runSteps_penc hs hcw] at hrun
  cases hrun
  obtain ⟨y, hy, hdone⟩ := pencResult_of_not_fault hfault
  rw [hdone] at hfault ⊢
  have hissued : Issued (issue w (pencDone rd s y)) := ⟨hs.events, rfl, rfl⟩
  have hsource : buf (issue w (pencDone rd s y)) rd = y := buf_setBuf_self rd y _
  have hback := decStages_of_encStages (s := s) (t := issue w (pencDone rd s y)) (fun _ => rfl) (fun _ => rfl) hy
  rw [Nat.zero_add, decStages] at hback
  refine ⟨_, runSteps_pdec hissued hw, ?_⟩
  rw [pdecResult_eq, hsource, show (issue w (pencDone rd s y)).plen = s.plen from rfl, hback, ended, pdecDone,
    pdecPost_of_wellFormed _ _ hutf8]
  exact ⟨buf_setBuf_self re _ _, rfl, rfl, hfault⟩

end Sys2Proof.Machine

/-! Reset (70_reset_and_hazards.md R400, R402) and the return from a fault (60_exceptions.md R367). -/

namespace Sys2Proof.Machine

/-- A soft reset is accepted in every state (R402). -/
theorem writeMapped_of_softReset {v : Word} (hv : v.getLsbD 0 = true) (s : State) :
    writeMapped v .ctrl s = resetBlock s :=
  if_pos ⟨rfl, hv⟩

/-- Settles O9: the reset input and the soft reset are the one operation `resetBlock`. -/
theorem resets : Obligations.Resets := by
  intro s v
  refine ⟨rfl, fun hv => ?_⟩
  have hwrite := writes_of_target (target_ctrl s) v
  rw [writeMapped_of_softReset hv] at hwrite
  exact hwrite

/-- A fault record that is as it was leaves the state as it was. -/
theorem withRecord_eq_self {s : State} {status : Status} {errinfo ecmd : Word} (hstatus : status = s.status)
    (hinfo : errinfo = s.errinfo) (hcmd : ecmd = s.ecmd) :
    { s with status := status, errinfo := errinfo, ecmd := ecmd } = s := by
  subst hstatus hinfo hcmd
  rfl

/-- With no fault recorded the fault record is already clear (10_state.md R29, R30). -/
theorem Inv.clearFault_eq {s : State} (h : Inv s) (hf : s.status.fault = false) : Machine.clearFault s = s := by
  obtain ⟨herr, hinfo, hcmd⟩ := h.record hf
  have hstatus : statusFaultCleared s.status = s.status := by rw [statusFaultCleared, ← hf, ← herr]
  exact withRecord_eq_self hstatus hinfo.symm hcmd.symm

/-- Settles O22. -/
theorem errclr : Obligations.Errclr := by
  refine ⟨encoded_of_formatZ fun _ _ _ _ => rfl, fun s => ⟨complete (clearFault s), rfl, rfl, rfl, rfl, rfl⟩,
    fun s h hf => ?_⟩
  calc exec .errclr s
    _ = .next (complete (clearFault s)) := rfl
    _ = .next (complete s) := by rw [h.clearFault_eq hf]
    _ = exec .nop s := rfl

end Sys2Proof.Machine

/-! The core steps of a command, from issue to end: that under the invariant there always is one, what each can leave,
and that only a bounded number of them leave the command in execution (70_reset_and_hazards.md R409). -/

namespace Sys2Proof.Machine

/-! ### A core step always answers -/

/-- The command decoder accepts no stage tag (30_encoding.md R94, R95). -/
theorem decode_ne_tag {w : Word} {i : Instr} (h : decode w = .ok i) : i ≠ .tag1 ∧ i ≠ .tag2 ∧ i ≠ .tag3 := by
  obtain ⟨_, henc⟩ := encode_of_decode h
  refine ⟨?_, ?_, ?_⟩ <;> rintro rfl <;> cases henc

/-- A command outside the sequencer always answers (40_system_buffer.md R120). -/
theorem EndsAtOnce.answers {i : Instr} {s : State} (h : EndsAtOnce i s) : ∃ t, exec i s = .next t := by
  obtain ⟨r, hexec, _⟩ := h
  have hretire : exec i s = retire s (r.map fun c => c.apply s) := hexec s.work
  rw [hretire]
  exact retire_answers s _

/-- Outside `RUN` every command word's instruction answers: `PENC` and `PDEC` have their Start and Post steps there
(47_pipeline.md R328 to R330). -/
theorem exec_answers_of_decode {s : State} (hs : s.sst ≠ .run) {i : Instr} (hd : decode s.cw = .ok i) :
    ∃ t, exec i s = .next t := by
  obtain ⟨h1, h2, h3⟩ := decode_ne_tag hd
  cases i with
  | penc rd ra =>
    cases hsst : s.sst with
    | idle => exact ⟨_, exec_penc_of_idle hsst rd ra⟩
    | post => exact ⟨_, exec_penc_of_post hsst rd ra⟩
    | run => exact absurd hsst hs
  | pdec rd ra u r =>
    cases hsst : s.sst with
    | idle => exact ⟨_, exec_pdec_of_idle hsst rd ra u r⟩
    | post => rw [exec_pdec_of_post hsst]; exact retire_answers s _
    | run => exact absurd hsst hs
  | tag1 => exact absurd rfl h1
  | tag2 => exact absurd rfl h2
  | tag3 => exact absurd rfl h3
  | _ => exact (endsAtOnce id s).answers

/-- In `RUN` the sequencer has a stage to do (47_pipeline.md R328, R329). -/
theorem Inv.stageReady {s : State} (h : Inv s) (hs : s.sst = .run) : stageReady s = true := by
  have ha := h.active (by simp [hs])
  refine (stageReady_iff s).2 ⟨hs, ?_⟩
  cases hdir : s.sdir with
  | enc =>
    have hne : s.spc ≠ s.plen := (ha.enc hdir).2.1 hs
    exact .inl ⟨rfl, lt_of_le_of_ne ha.spc (mt BitVec.eq_of_toNat_eq hne)⟩
  | dec =>
    have hne : s.spc ≠ 0#5 := (ha.dec hdir).2.1 hs
    exact .inr ⟨rfl, by bv_omega⟩

theorem stageStep_answers {s : State} (h : stageReady s = true) (g : Byte) : ∃ t, stageStep g s = .next t := by
  cases hdir : s.sdir with
  | enc => exact ⟨_, stageStep_of_enc h hdir⟩
  | dec => exact ⟨_, stageStep_of_dec h hdir⟩

theorem Inv.coreStep_answers {s : State} (h : Inv s) : ∃ t, Machine.coreStep s = .next t := by
  obtain ⟨_, heq⟩ | ⟨_, hs, i, hd, heq⟩ | ⟨_, _, _, heq⟩ | ⟨_, hs, heq⟩ := coreStep_cases s <;> rw [heq]
  · exact ⟨s, rfl⟩
  · exact exec_answers_of_decode hs hd
  · exact ⟨_, rfl⟩
  · exact stageStep_answers (h.stageReady hs) _

/-- Settles O12: only a core step could stop, and under the invariant none does. -/
theorem neverStops : Obligations.NeverStops := by
  intro s h
  obtain ⟨_, heq⟩ | ⟨rest, _, heq⟩ | ⟨_, _, _, _, heq⟩ | ⟨_, _, _, _, _, heq⟩ | ⟨_, _, heq⟩ := step_cases s <;> rw [heq]
  · exact h.coreStep_answers
  · exact (h.withEvents rest).coreStep_answers
  · exact ⟨_, rfl⟩
  · exact ⟨_, rfl⟩
  · exact ⟨_, rfl⟩

/-! ### The core steps left -/

/-- The stages an active sequencer still has to do (47_pipeline.md R328, R329). -/
def stagesLeft (s : State) : Nat :=
  match s.sdir with
  | .enc => s.plen.toNat - s.spc.toNat
  | .dec => s.spc.toNat

/-- The most core steps a command in execution can still take: a Start step, a Stage step per stage, and a Post step
(47_pipeline.md R327). -/
def stepsLeft (s : State) : Nat :=
  if s.sst = .idle then s.plen.toNat + 2 else stagesLeft s + 1

theorem stepsLeft_of_idle {s : State} (h : s.sst = .idle) : stepsLeft s = s.plen.toNat + 2 := if_pos h

theorem stepsLeft_of_active {s : State} (h : s.sst ≠ .idle) : stepsLeft s = stagesLeft s + 1 := if_neg h

theorem stepsLeft_pos (s : State) : 0 < stepsLeft s := by
  unfold stepsLeft
  split <;> omega

/-- The bound of R409, for programs of at most 16 stages (10_state.md R32). -/
theorem Inv.stepsLeft_le {s : State} (h : Inv s) : stepsLeft s ≤ 18 := by
  have hplen := h.plen
  have hspc := h.spc_le
  by_cases hs : s.sst = .idle
  · rw [stepsLeft_of_idle hs]
    omega
  · rw [stepsLeft_of_active hs, stagesLeft]
    split <;> omega

/-- A Start step, which has every stage still to do, is one of the steps left (R328, R329). -/
theorem stepsLeft_lt_of_start {s t : State} (hs : s.sst = .idle) (ht : t.sst ≠ .idle)
    (hall : stagesLeft t = s.plen.toNat) : stepsLeft t < stepsLeft s := by
  rw [stepsLeft_of_idle hs, stepsLeft_of_active ht, hall]
  exact Nat.lt_succ_self _

/-- A Stage step is one of the steps left (R328, R329). -/
theorem stepsLeft_lt_of_stage {s t : State} (hs : s.sst ≠ .idle) (ht : t.sst ≠ .idle)
    (hless : stagesLeft t < stagesLeft s) : stepsLeft t < stepsLeft s := by
  rw [stepsLeft_of_active hs, stepsLeft_of_active ht]
  exact Nat.succ_lt_succ hless

/-! ### What a core step can leave -/

/-- The states a core step can leave: the command ends with a commit or a fault, or goes on with fewer steps left. -/
inductive CoreEffect (s : State) : State → Prop where
  /-- The core takes no step while `BUSY` is 0 (20_memory.md R72). -/
  | rests (hb : s.status.busy = false) : CoreEffect s s
  /-- A Start or a Stage step: only `SEQ` and `W` change. -/
  | goesOn (sst : Sst) (spc : BitVec 5) (sdir : Dir) (work : Bytes)
    (hless : stepsLeft { s with sst := sst, spc := spc, sdir := sdir, work := work } < stepsLeft s) :
    CoreEffect s { s with sst := sst, spc := spc, sdir := sdir, work := work }
  /-- The commit of what the command stores, which records no fault (40_system_buffer.md R120). -/
  | commits (u : State) (hu : s.status.fault = false → u.status.fault = false) : CoreEffect s (complete u)
  /-- Fault entry (60_exceptions.md R364); one of a stage may leave `SPC` at the stage's index (47_pipeline.md R331). -/
  | faults (e : Raise) (g : Option (BitVec 5)) (spc : BitVec 5) : CoreEffect s (takeFault e g { s with spc := spc })

theorem coreEffect_of_stageStep {g : Byte} {s t : State} (h : stageStep g s = .next t) : CoreEffect s t := by
  obtain ⟨hready, hcase⟩ := stageStep_next h
  obtain ⟨hs, hspc⟩ := (stageReady_iff s).1 hready
  have hactive : s.sst ≠ .idle := by simp [hs]
  obtain ⟨hdir, rfl⟩ | ⟨hdir, rfl⟩ := hcase
  · obtain ⟨w, _, heq⟩ | ⟨e, _, heq⟩ := stageStepEnc_cases g s <;> rw [heq]
    · refine .goesOn _ _ s.sdir _ (stepsLeft_lt_of_stage hactive postOrRun_ne_idle ?_)
      simp only [stagesLeft, hdir, reduceCtorEq, true_and, false_and, or_false] at hspc ⊢
      bv_omega
    · exact .faults e _ s.spc
  · obtain ⟨w, _, heq⟩ | ⟨e, _, heq⟩ := stageStepDec_cases g s <;> rw [heq]
    · refine .goesOn _ _ s.sdir _ (stepsLeft_lt_of_stage hactive postOrRun_ne_idle ?_)
      simp only [stagesLeft, hdir, reduceCtorEq, true_and, false_and, false_or] at hspc ⊢
      bv_omega
    · exact .faults e _ _

theorem Answer.coreEffect {i : Instr} {s t : State} (h : Answer i s t) : CoreEffect s t := by
  cases h with
  | commit _ c _ => exact .commits _ c.apply_not_fault
  | fault _ e => exact .faults e none s.spc
  | startEnc rd ra _ hs => exact .goesOn _ _ _ _ (stepsLeft_lt_of_start hs postOrRun_ne_idle rfl)
  | startDec rd ra u r _ hs => exact .goesOn _ _ _ _ (stepsLeft_lt_of_start hs postOrRun_ne_idle rfl)
  | post _ rd v _ => exact .commits (postCommit rd v s) id
  | stage g _ h => exact coreEffect_of_stageStep h

theorem coreEffect_of_coreStep {s t : State} (h : coreStep s = .next t) : CoreEffect s t := by
  obtain ⟨hb, heq⟩ | ⟨_, _, i, _, heq⟩ | ⟨_, _, _, heq⟩ | ⟨_, _, heq⟩ := coreStep_cases s <;> rw [heq] at h
  · cases h; exact .rests hb
  · exact (exec_next h).coreEffect
  · cases h; exact .faults .illegal none s.spc
  · exact coreEffect_of_stageStep h

/-! ### Precise faults -/

/-- No register write raises a fault, or clears one (60_exceptions.md R360). -/
theorem writeReg_fault (v : Word) (s : State) (r : HostReg) : (writeReg v s r).status.fault = s.status.fault := by
  cases r with
  | cmd =>
    simp only [writeReg, writeCmd]
    split <;> rfl
  | plen =>
    simp only [writeReg, writePlen]
    split <;> rfl
  | pcfg r =>
    obtain ⟨p, hp⟩ := setPcfgWord_frame r v s
    rw [writeReg, hp]
  | pslot r =>
    obtain ⟨p, hp⟩ := setPslotWord_frame r v s
    rw [writeReg, hp]
  | _ => rfl

theorem hostWrite_not_fault {s : State} (hf : s.status.fault = false) (width : Nat) (addr : BitVec 20) (v : Word) :
    (hostWrite width addr v s).status.fault = false := by
  obtain ⟨r, _, heq⟩ | ⟨_, heq⟩ := hostWrite_cases width addr v s <;> rw [heq]
  · show (writeMapped v r s).status.fault = false
    obtain ⟨_, _, hw⟩ | ⟨_, hw⟩ | ⟨_, hw⟩ := writeMapped_cases v r s <;> rw [hw]
    · rfl
    · exact hf
    · exact (writeReg_fault v s r).trans hf
  · exact hf

/-- Fault entry leaves the data as it was, also where it sets `SPC` to the stage's index (47_pipeline.md R331). -/
theorem faultEntry_takeFault_withSpc (e : Raise) (g : Option (BitVec 5)) (spc : BitVec 5) (s : State) :
    FaultEntry (raiseCode e) (errinfoWord (raiseInfo e) g) s (takeFault e g { s with spc := spc }) where
  status := rfl
  errinfo := rfl
  ecmd := rfl
  sst := rfl
  data := ⟨rfl, fun _ => rfl, fun _ => rfl, rfl, rfl, rfl, rfl, rfl, rfl, rfl, rfl⟩

/-- A core step that raises a fault is a fault entry (60_exceptions.md R364). -/
theorem faultEntry_of_coreStep {s t : State} (h : coreStep s = .next t) (hs : s.status.fault = false)
    (ht : t.status.fault = true) : ∃ code info, FaultEntry code info s t := by
  cases coreEffect_of_coreStep h with
  | faults e g spc => exact ⟨_, _, faultEntry_takeFault_withSpc e g spc s⟩
  | rests | goesOn => cases hs.symm.trans ht
  | commits u hu => cases (hu hs).symm.trans ht

/-- A step that raises a fault is the core's. -/
theorem faultEntry_of_step {s t : State} (h : step s = .next t) (hs : s.status.fault = false)
    (ht : t.status.fault = true) : ∃ rest code info, FaultEntry code info { s with events := rest } t := by
  obtain ⟨_, heq⟩ | ⟨rest, _, heq⟩ | ⟨_, _, _, _, heq⟩ | ⟨n, addr, v, rest, _, heq⟩ | ⟨_, _, heq⟩ := step_cases s <;>
    rw [heq] at h
  · exact ⟨s.events, faultEntry_of_coreStep h hs ht⟩
  · exact ⟨rest, faultEntry_of_coreStep h hs ht⟩
  · cases h; cases hs.symm.trans ht
  · cases h
    cases (hostWrite_not_fault (s := { s with events := rest }) hs n addr v).symm.trans ht
  · cases h; cases ht

/-- A core step that leaves the command in execution changes `SEQ` and `W` only. -/
theorem coreStep_frame_of_busy {s t : State} (h : coreStep s = .next t) (ht : t.status.busy = true) :
    { t with sst := s.sst, spc := s.spc, sdir := s.sdir, work := s.work } = s := by
  cases coreEffect_of_coreStep h with
  | rests | goesOn => rfl
  | commits | faults => cases ht

/-- Settles O52. -/
theorem preciseFaults : Obligations.PreciseFaults := by
  refine ⟨fun s t hstep hs ht => ?_, fun _ _ => coreStep_frame_of_busy⟩
  obtain ⟨rest, code, info, hstatus, _, hecmd, hsst, hdata⟩ := faultEntry_of_step hstep hs ht
  refine ⟨hdata.bufs, hdata.slots, hdata.md, hdata.ctrl, hdata.plen, hdata.pcfg, hdata.pslot, hdata.cw, hecmd, hsst,
    ?_, ?_, ?_⟩ <;> rw [hstatus]

/-! ### Progress -/

/-- The command has ended (40_system_buffer.md R120, 60_exceptions.md R364). -/
def CommandEnded (t : State) : Prop :=
  t.status.busy = false ∧ (t.status.done = true ∨ t.status.fault = true)

/-- A core step of a command in execution ends it, or leaves it in execution with fewer steps to come. -/
theorem commandEnded_or_stepsLeft_lt {s t : State} (h : coreStep s = .next t) (hb : s.status.busy = true) :
    CommandEnded t ∨ (t.status.busy = true ∧ t.events = s.events ∧ stepsLeft t < stepsLeft s) := by
  cases coreEffect_of_coreStep h with
  | rests hb' => cases hb.symm.trans hb'
  | goesOn _ _ _ _ hless => exact .inr ⟨hb, rfl, hless⟩
  | commits => exact .inl ⟨rfl, .inl rfl⟩
  | faults => exact .inl ⟨rfl, .inr rfl⟩

/-- With only core steps to come, a command ends within the steps it has left. -/
theorem runSteps_commandEnded {s : State} (h : Inv s) (hev : s.events = []) (hb : s.status.busy = true) :
    ∃ n t, n ≤ stepsLeft s ∧ runSteps n s = .next t ∧ CommandEnded t := by
  obtain ⟨t, hstep⟩ := h.coreStep_answers
  have hrun := runSteps_of_coreStep hev hstep
  obtain hended | ⟨hbusy, hevents, hless⟩ := commandEnded_or_stepsLeft_lt hstep hb
  · exact ⟨1, t, stepsLeft_pos s, hrun 0, hended⟩
  · obtain ⟨n, u, hn, hrunt, hended⟩ := runSteps_commandEnded (h.coreStep hstep) (hevents.trans hev) hbusy
    exact ⟨n + 1, u, hn.trans_lt hless, (hrun n).trans hrunt, hended⟩
termination_by stepsLeft s

/-- Settles O53: the steps a command has left are at most 18. -/
theorem progress : Obligations.Progress := by
  intro s h hev hb
  obtain ⟨n, t, hn, hrun, hended⟩ := runSteps_commandEnded h hev hb
  exact ⟨n, t, hn.trans h.stepsLeft_le, hrun, hended⟩

end Sys2Proof.Machine
